-- ==== Sys2Proof/Word.lean ====
section
/-! DEFINITION. The widths of the block's data (00_scope.md R9, R10): bytes of the stream, 16-bit registers and
32-bit operation words. -/

namespace Sys2Proof

/-- A byte (R10). -/
abbrev Byte := BitVec 8

/-- The content of one register of the register space (R9, R23). -/
abbrev Word := BitVec 16

/-- One operation as it is presented on the operation port (R80). -/
abbrev OpWord := BitVec 32

end Sys2Proof
end

