-- ==== Sys2Proof/Syntax.lean ====
section
/-! DEFINITION. The ten operations of 30_encoding.md R82, with the fields of R81 each at its own width. -/

namespace Sys2Proof

/-- A checksum kind (40_checksum.md R100): kind 0 is the additive sum, kind 1 the Modbus CRC-16. -/
inductive Kind where
  | sum
  | crc
  deriving DecidableEq, Repr

/-- One operation of the block, one constructor per row of the opcode table (R82). The fields are unsigned values
taken as written (R84). -/
inductive Instr where
  /-- NOP (42_host_access.md R150). -/
  | nop
  /-- PUSH: deliver one stream byte (41_reassembler.md R122). -/
  | push (sof : Bool) (byte : Byte)
  /-- WRREG: write a register (42_host_access.md R153). -/
  | wrreg (addr : BitVec 8) (data : Word)
  /-- RDREG: read a register (42_host_access.md R151). -/
  | rdreg (addr : BitVec 8)
  /-- CANCEL: abandon the current accumulation (41_reassembler.md R133). -/
  | cancel
  /-- RELEASE: give the held frame back (42_host_access.md R156). -/
  | release
  /-- CKINIT: initialise the standalone checksum unit (40_checksum.md R107). -/
  | ckinit (kind : Kind)
  /-- CKFEED: feed it one byte (40_checksum.md R108). -/
  | ckfeed (byte : Byte)
  /-- FRREAD: read one byte of the held frame (42_host_access.md R155). -/
  | frread (idx : Word)
  /-- SRESET: soft reset (42_host_access.md R157). -/
  | sreset
  deriving DecidableEq, Repr

end Sys2Proof
end

