-- ==== Sys2Proof/WellFormed.lean ====
section
/-! DEFINITION. Which operation words are well-formed: the match and mask columns of 30_encoding.md R82.

Every field of `Instr` has exactly the width R81 gives it, so every term of `Instr` is well-formed and there is
nothing to check on that side. The check the block makes is on the WORD: a word is well-formed when it matches a
row of the table, that is when its OP is assigned (R85) and all its reserved bits are zero (R83). The decoder does
not read this table; that the two agree is R87. -/

namespace Sys2Proof

/-- One row of the opcode table: the word is selected when `(w and mask) = pattern` (R82; the column "match"). -/
structure OpRow where
  mnemonic : String
  pattern : OpWord
  mask : OpWord
  deriving DecidableEq, Repr

/-- The row selects the word. -/
def OpRow.selects (r : OpRow) (w : OpWord) : Bool := w &&& r.mask == r.pattern

/-- The ten rows of R82. -/
def opTable : List OpRow :=
  [ ⟨"NOP",     0x00000000, 0xFFFFFFFF⟩,
    ⟨"PUSH",    0x10000000, 0xFFFFFE00⟩,
    ⟨"WRREG",   0x20000000, 0xF00F0000⟩,
    ⟨"RDREG",   0x30000000, 0xF00FFFFF⟩,
    ⟨"CANCEL",  0x40000000, 0xFFFFFFFF⟩,
    ⟨"RELEASE", 0x50000000, 0xFFFFFFFF⟩,
    ⟨"CKINIT",  0x60000000, 0xFFFFFFFE⟩,
    ⟨"CKFEED",  0x70000000, 0xFFFFFF00⟩,
    ⟨"FRREAD",  0x80000000, 0xFFFF0000⟩,
    ⟨"SRESET",  0x90000000, 0xFFFFFFFF⟩ ]

/-- The rows that select a word. -/
def rowsSelecting (w : OpWord) : List OpRow := opTable.filter fun r => r.selects w

/-- A word is well-formed when exactly one row selects it (R82, R87). -/
def wordWf (w : OpWord) : Bool := (rowsSelecting w).length == 1

/-- The mnemonic of an operation, as the opcode table spells it. -/
def Instr.mnemonic : Instr → String
  | .nop => "NOP"
  | .push _ _ => "PUSH"
  | .wrreg _ _ => "WRREG"
  | .rdreg _ => "RDREG"
  | .cancel => "CANCEL"
  | .release => "RELEASE"
  | .ckinit _ => "CKINIT"
  | .ckfeed _ => "CKFEED"
  | .frread _ => "FRREAD"
  | .sreset => "SRESET"

end Sys2Proof
end

