-- ==== Sys2Proof/Decode.lean ====
section
/-! DEFINITION. Decoding of an operation word (30_encoding.md R80 to R87) and the encoder (R82, R89).

Decoding needs only the word: no mode bit or state changes it (R87). The block receives whole 32-bit words on its
operation port, not bytes from a memory, so there is no byte order here (20_memory.md R60; notes/assumptions/12.md). -/

namespace Sys2Proof

/-- Why a word is no operation. Both raise ILLEGAL (R83, R85). -/
inductive DecodeError where
  /-- OP is 0xA to 0xF (R85). -/
  | reservedOp (op : BitVec 4)
  /-- OP is assigned but a reserved bit is set (R83). -/
  | reservedBits (op : BitVec 4)
  deriving DecidableEq, Repr

/-- `OP = w[31:28]` (R80, R81). -/
def opField (w : OpWord) : BitVec 4 := w.extractLsb' 28 4

/-- `ADDR = w[27:20]` (R81, R84). -/
def addrField (w : OpWord) : BitVec 8 := w.extractLsb' 20 8

/-- `DATA = w[15:0]` (R81, R84). -/
def dataField (w : OpWord) : Word := w.extractLsb' 0 16

/-- `SOF = w[8]` (R81, R84). -/
def sofField (w : OpWord) : Bool := w.getLsbD 8

/-- `BYTE = w[7:0]` (R81, R84). -/
def byteField (w : OpWord) : Byte := w.extractLsb' 0 8

/-- The kind a one-bit KIND field names: 0 = SUM, 1 = CRC (R84, 40_checksum.md R100). -/
def Kind.ofBit (b : Bool) : Kind := if b then .crc else .sum

/-- The KIND bit of a kind (R100). -/
def Kind.bit : Kind → Bool
  | .sum => false
  | .crc => true

/-- `KIND = w[0]` (R81, R84). -/
def kindField (w : OpWord) : Kind := .ofBit (w.getLsbD 0)

/-- `IDX = w[15:0]` (R81, R84). -/
def idxField (w : OpWord) : Word := w.extractLsb' 0 16

/-- The operation, provided the word's reserved bits are all zero (R83: they are never ignored). -/
def strict {n : Nat} (w : OpWord) (reserved : BitVec n) (i : Instr) : Except DecodeError Instr :=
  if reserved = 0#n then .ok i else .error (.reservedBits (opField w))

/-- The operation a word stands for, or why it is illegal (R82, R83, R85). -/
def decode (w : OpWord) : Except DecodeError Instr :=
  match (opField w).toNat with
  | 0 => strict w (w.extractLsb' 0 28) .nop
  | 1 => strict w (w.extractLsb' 9 19) (.push (sofField w) (byteField w))
  | 2 => strict w (w.extractLsb' 16 4) (.wrreg (addrField w) (dataField w))
  | 3 => strict w (w.extractLsb' 0 20) (.rdreg (addrField w))
  | 4 => strict w (w.extractLsb' 0 28) .cancel
  | 5 => strict w (w.extractLsb' 0 28) .release
  | 6 => strict w (w.extractLsb' 1 27) (.ckinit (kindField w))
  | 7 => strict w (w.extractLsb' 8 20) (.ckfeed (byteField w))
  | 8 => strict w (w.extractLsb' 16 12) (.frread (idxField w))
  | 9 => strict w (w.extractLsb' 0 28) .sreset
  | _ => .error (.reservedOp (opField w))

/-- The word of an operation, as the assembler table writes it (R89): the row's match value or'ed with its fields, each
shifted to its place of R81; every reserved bit is zero (R82). -/
def encode : Instr → OpWord
  | .nop => 0x00000000#32
  | .push sof byte => 0x10000000#32 ||| ((BitVec.ofBool sof).zeroExtend 32 <<< 8) ||| byte.zeroExtend 32
  | .wrreg addr data => 0x20000000#32 ||| (addr.zeroExtend 32 <<< 20) ||| data.zeroExtend 32
  | .rdreg addr => 0x30000000#32 ||| (addr.zeroExtend 32 <<< 20)
  | .cancel => 0x40000000#32
  | .release => 0x50000000#32
  | .ckinit kind => 0x60000000#32 ||| (BitVec.ofBool kind.bit).zeroExtend 32
  | .ckfeed byte => 0x70000000#32 ||| byte.zeroExtend 32
  | .frread idx => 0x80000000#32 ||| idx.zeroExtend 32
  | .sreset => 0x90000000#32

/-- The instruction the decoder reads from the low `nbits` bits of `w`, the bits above them zero. The block has one
instruction length, 32 bits (R80). -/
def decodeTableWord (nbits w : Nat) : Option Instr :=
  (decode (BitVec.ofNat 32 (w % 2 ^ nbits))).toOption

end Sys2Proof
end

