-- ==== Sys2Proof/Config.lean ====
section
/-! DEFINITION. The implementation parameters of the block (00_scope.md R7, R8; 92_eei_decisions.md D5).

A model takes NSCHEMA and BUFMAX as arguments: they are held in the state (`State.nschema`, `State.bufmax`) and no
operation changes them, so a statement about every state is a statement about every instance. This file gives their
legal ranges and the reference configuration, which is the instance `State.reset` describes
(notes/assumptions/3.md). The spec leaves no result of an operation open, so there is no free value. -/

namespace Sys2Proof.Config

/-- The reference value of NSCHEMA (R7). -/
def nschemaRef : Nat := 2

/-- The reference value of BUFMAX (R8). -/
def bufmaxRef : Nat := 256

/-- The values of NSCHEMA and BUFMAX an instance of the block may have (R7, R8). -/
abbrev Legal (nschema bufmax : Nat) : Prop :=
  1 ≤ nschema ∧ nschema ≤ 8 ∧ 6 ≤ bufmax ∧ bufmax ≤ 4096

end Sys2Proof.Config
end

