-- ==== Sys2Proof/Machine/State.lean ====
section
/-! DEFINITION. The state of the block as plain data (10_state.md R22), its reset state (R47) and the reasons a step
can stop. -/

namespace Sys2Proof.Machine

/-- The response codes of 60_exceptions.md R170. Codes 6 to 15 are reserved and never returned, so they are no
values of this type. -/
inductive Code where
  | ok
  | illegal
  | badAddr
  | readOnly
  | noFrame
  | range
  deriving DecidableEq, Repr

/-- The response of an operation, `(CODE, RDATA)` (30_encoding.md R88). -/
structure Response where
  code : Code
  rdata : Word
  deriving DecidableEq, Repr

/-- The states of the reassembler FSM (10_state.md R39). Its encoding 3 is never held (93 U7) and has no constructor. -/
inductive Fsm where
  | idle
  | hdr
  | accum
  deriving DecidableEq, Repr

/-- The six registers of one schema slot (10_state.md R26 to R32). -/
structure Slot where
  scfg : Word
  explen : Word
  rhdr01 : Word
  rhdr23 : Word
  nhdr01 : Word
  nhdr23 : Word
  deriving DecidableEq, Repr

/-- A slot after reset: disarmed and ill-formed (R47). -/
def Slot.reset : Slot := ⟨0, 0, 0, 0, 0, 0⟩

/-- The registers the register map names (10_state.md R24); `s` is a slot index. -/
inductive Reg where
  | param0
  | param1
  | status
  | ie
  | fsmstat
  | fsmpos
  | outinfo
  | outlen
  | cfgerr
  | ckstat
  | ckres
  | ckcnt
  | cand
  | scfg (s : Nat)
  | explen (s : Nat)
  | rhdr01 (s : Nat)
  | rhdr23 (s : Nat)
  | nhdr01 (s : Nat)
  | nhdr23 (s : Nat)
  deriving DecidableEq, Repr

/-- What the outside presents to the block: an operation word on the operation port (30_encoding.md R80), or an
assertion of the reset input (70_reset_and_hazards.md R190). -/
inductive Input where
  | op (w : OpWord)
  | reset
  deriving DecidableEq, Repr

/-- A byte buffer (RBUF or OBUF): the bytes at the listed indexes, in the canonical form `Memory.wf` of
Machine/Ops.lean: indexes strictly rising, no entry equal to what an unlisted index reads as. -/
abbrev Memory := List Host.Cell

/-- Why a step can stop with a fault. Neither is the spec's: it names no trap (60_exceptions.md R174). Both stand for
an access to a buffer byte that the spec says does not exist (20_memory.md R60), and no state that meets the spec's
own invariants (10_state.md R46) raises one (notes/assumptions/5.md). -/
inductive Fault where
  /-- Raised by PUSH: the byte would go to RBUF index `i` at or past BUFMAX. Safe: the model stops. -/
  | rbufIndex (i : Nat)
  /-- Raised by FRREAD: OBUF index `i` is at or past BUFMAX though below OUT_LEN. Safe: the model stops. -/
  | obufIndex (i : Nat)
  deriving DecidableEq, Repr

/-- Why a step can be refused. -/
inductive Refusal where
  /-- Raised by `exec` for an instruction that has no meaning yet; no arm uses it. Safe: the model stops. -/
  | notModelled (mnemonic : String)
  deriving DecidableEq, Repr

/-- The block state S (10_state.md R22), with the model's own `port` and `response` for the block's input and output. -/
structure State where
  /-- BUFMAX, a constant of the instance (00_scope.md R8). -/
  bufmax : Nat
  /-- The schema slot file (R26); NSCHEMA, a constant of the instance, is its length (R7). -/
  slots : List Slot
  /-- IE (R38). -/
  ie : Word
  /-- STATUS.NOISE (R35). -/
  noise : Bool
  /-- STATUS.MISM (R35). -/
  mism : Bool
  /-- STATUS.OVF (R35). -/
  ovf : Bool
  /-- STATUS.OVR (R35). -/
  ovr : Bool
  /-- STATUS.ERR (R35). -/
  err : Bool
  /-- OUTV: a frame is held (R36). -/
  outv : Bool
  /-- OUT_LEN (R36). -/
  outLen : Word
  /-- OUT_SCHEMA (R36). -/
  outSchema : BitVec 3
  /-- OUT_CKOK (R36). -/
  outCkok : Bool
  /-- OBUF (R36). -/
  obuf : Memory
  /-- FSM (R39). -/
  fsm : Fsm
  /-- POS, the length counter (R39). -/
  pos : Word
  /-- SLOT (R39). -/
  slot : BitVec 3
  /-- RQ, the re-queue flag (R39). -/
  rq : Bool
  /-- CANDR, the response-header candidates (R43); only the lowest NSCHEMA bits can be 1. -/
  candr : BitVec 8
  /-- CANDN, the noise-header candidates (R43); only the lowest NSCHEMA bits can be 1. -/
  candn : BitVec 8
  /-- RBUF, the reassembly buffer (R40). -/
  rbuf : Memory
  /-- CK_KIND (R44). -/
  ckKind : Kind
  /-- CK_CNT (R44). -/
  ckCnt : Word
  /-- CK_ACC (R44). -/
  ckAcc : Word
  /-- CK_P1 (R44). -/
  ckP1 : Word
  /-- CK_P2 (R44). -/
  ckP2 : Word
  /-- CK_B1 (R44). -/
  ckB1 : Byte
  /-- CK_B2 (R44). -/
  ckB2 : Byte
  /-- The model's own: the response of the last operation performed, none before the first
  (notes/assumptions/2.md). -/
  response : Option Response
  /-- The model's own: what has been presented at the port and not yet been accepted, in port order (20_memory.md
  R63; notes/assumptions/1.md). -/
  port : List Input
  deriving DecidableEq, Repr

/-- NSCHEMA: the number of schema slots (R7, R26). -/
def State.nschema (s : State) : Nat := s.slots.length

/-- The reset state of the instance with the given NSCHEMA and BUFMAX (R47). The contents of RBUF and OBUF are
unspecified and unobservable (R41): nothing is listed (DESIGN CHOICE, unsafe: notes/assumptions/4.md). -/
def State.resetOf (nschema bufmax : Nat) : State where
  bufmax := bufmax
  slots := List.replicate nschema Slot.reset
  ie := 0x0000
  noise := false
  mism := false
  ovf := false
  ovr := false
  err := false
  outv := false
  outLen := 0
  outSchema := 0
  outCkok := false
  obuf := []
  fsm := .idle
  pos := 0
  slot := 0
  rq := false
  candr := 0
  candn := 0
  rbuf := []
  ckKind := .crc
  ckCnt := 0
  ckAcc := 0xFFFF
  ckP1 := 0xFFFF
  ckP2 := 0xFFFF
  ckB1 := 0x00
  ckB2 := 0x00
  response := none
  port := []

/-- The machine right after reset, in the spec's reference configuration (R47; notes/assumptions/3.md). -/
def State.reset : State := State.resetOf Config.nschemaRef Config.bufmaxRef

end Sys2Proof.Machine
end

