-- ==== Sys2Proof/Machine/Ops.lean ====
section
/-! DEFINITION. The named operations over the buffers and the state: reading and writing a buffer byte, responding,
raising a code (the block's only form of exception, 60_exceptions.md R173; there is no return from it, R175), the
return to IDLE (41_reassembler.md R128) and the reset event (70_reset_and_hazards.md R190). -/

namespace Sys2Proof.Machine

/-- What a buffer byte reads as while nothing has written it. The spec leaves it unspecified and unobservable (10_state.md
R41). DESIGN CHOICE, unsafe: notes/assumptions/4.md. -/
def Memory.unlisted : Byte := 0x00

/-- The canonical form of a buffer: indexes strictly rising, no entry equal to what an unlisted index reads as. -/
abbrev Memory.wf (m : Memory) : Prop :=
  m.Pairwise (fun x y => x.1 < y.1) ∧ ∀ c ∈ m, c.2 ≠ Memory.unlisted

/-- `MemRead(·, i, 1)` (00_scope.md R11). -/
def Memory.read : Memory → Nat → Byte
  | [], _ => Memory.unlisted
  | (a, c) :: m, i => if i = a then c else Memory.read m i

/-- `MemWrite(·, i, 1, b)` (00_scope.md R11), keeping the canonical form. -/
def Memory.write : Memory → Nat → Byte → Memory
  | [], i, b => if b = Memory.unlisted then [] else [(i, b)]
  | (a, c) :: m, i, b =>
    if i < a then if b = Memory.unlisted then (a, c) :: m else (i, b) :: (a, c) :: m
    else if i = a then if b = Memory.unlisted then m else (i, b) :: m
    else (a, c) :: Memory.write m i b

/-- The first `n` bytes of a buffer, `·[0..n)` (R10). -/
def Memory.bytes (m : Memory) (n : Nat) : List Byte := (List.range n).map m.read

/-- `for i in 0 .. n−1: MemWrite(dst, i, 1, MemRead(src, i, 1))`, the copy of 41_reassembler.md R127. -/
def Memory.copy (src dst : Memory) (n : Nat) : Memory :=
  (List.range n).foldl (fun d i => Memory.write d i (src.read i)) dst

/-- The CODE field of a response code (60_exceptions.md R170). -/
def Code.bits : Code → BitVec 4
  | .ok => 0
  | .illegal => 1
  | .badAddr => 2
  | .readOnly => 3
  | .noFrame => 4
  | .range => 5

/-- The response as a 20-bit word `{CODE, RDATA}` (30_encoding.md R88). -/
def Response.word (r : Response) : BitVec 20 := r.code.bits ++ r.rdata

/-- `respond(code, data)` (00_scope.md R11). -/
def State.respond (s : State) (code : Code) (data : Word) : State :=
  { s with response := some ⟨code, data⟩ }

/-- `raise <Code>`: the response `(Code, 0x0000)`, STATUS.ERR becomes 1, nothing else changes, and the block goes on
with the next operation (R11; 60_exceptions.md R173). -/
def State.raise (s : State) (code : Code) : State :=
  State.respond { s with err := true } code 0x0000

/-- `MemWrite(RBUF, k, 1, b)`. RBUF has the indexes 0 to BUFMAX−1 (20_memory.md R60). -/
def State.writeRbuf (s : State) (k : Nat) (b : Byte) : Except Fault State :=
  if k < s.bufmax then .ok { s with rbuf := s.rbuf.write k b } else .error (.rbufIndex k)

/-- `MemRead(OBUF, i, 1)`. OBUF has the indexes 0 to BUFMAX−1 (20_memory.md R60). -/
def State.readObuf (s : State) (i : Nat) : Except Fault Byte :=
  if i < s.bufmax then .ok (s.obuf.read i) else .error (.obufIndex i)

/-- GOIDLE (41_reassembler.md R128): RBUF is not written; RQ, the output frame, the slot registers and the checksum
unit are unchanged. -/
def State.goIdle (s : State) : State :=
  { s with fsm := .idle, pos := 0, slot := 0, candr := 0, candn := 0 }

/-- The reset event (70_reset_and_hazards.md R190): every piece of state to its reset value (10_state.md R47). The
instance's NSCHEMA and BUFMAX are constants; what the outside has presented and the block not yet accepted stays. -/
def State.resetEvent (s : State) : State :=
  { State.resetOf s.nschema s.bufmax with port := s.port }

end Sys2Proof.Machine
end

