-- ==== Sys2Proof/Machine/Operands.lean ====
section
/-! DEFINITION. The operand forms: the fields of a slot (10_state.md R27 to R33), sets of slots (00_scope.md R12) and
the register named by an ADDR field (10_state.md R24). -/

namespace Sys2Proof.Machine

/-- Slot `j` of the slot file. Slots with `j ≥ NSCHEMA` do not exist and no operand names one; the FSM, in states
outside R46 only, sees a disarmed and ill-formed slot there (DESIGN CHOICE, unsafe: notes/assumptions/6.md). -/
def State.slotAt (s : State) (j : Nat) : Slot := s.slots.getD j Slot.reset

/-- SCFG_s.EN, bit 0 (R27, R28). -/
def Slot.en (x : Slot) : Bool := x.scfg.getLsbD 0

/-- SCFG_s.KIND, bit 1 (R27, R29). -/
def Slot.kind (x : Slot) : Kind := .ofBit (x.scfg.getLsbD 1)

/-- SCFG_s.RHLEN, bits [4:2] (R27, R30). -/
def Slot.rhlen (x : Slot) : Nat := (x.scfg.extractLsb' 2 3).toNat

/-- SCFG_s.NHLEN, bits [7:5] (R27, R30). -/
def Slot.nhlen (x : Slot) : Nat := (x.scfg.extractLsb' 5 3).toNat

/-- `RH_s[k]` (R32): byte k of `{RHDR23_s, RHDR01_s}`, k = 0 in bits [7:0]. -/
def Slot.rh (x : Slot) (k : Nat) : Byte := (x.rhdr23 ++ x.rhdr01).extractLsb' (8 * k) 8

/-- `NH_s[k]` (R32). -/
def Slot.nh (x : Slot) (k : Nat) : Byte := (x.nhdr23 ++ x.nhdr01).extractLsb' (8 * k) 8

/-- CKLEN of a kind (40_checksum.md R100). -/
def ckLen : Kind → Nat
  | .sum => 1
  | .crc => 2

/-- The slot is well-formed in an instance with the given BUFMAX (R33). -/
def Slot.wellFormed (bufmax : Nat) (x : Slot) : Bool :=
  decide (1 ≤ x.rhlen) && decide (x.rhlen ≤ 4) && decide (x.nhlen ≤ 4) &&
    decide (x.rhlen + ckLen x.kind ≤ x.explen.toNat) && decide (x.explen.toNat ≤ bufmax)

/-- The slot is eligible: armed and well-formed (R33). -/
def Slot.eligible (bufmax : Nat) (x : Slot) : Bool := x.en && x.wellFormed bufmax

/-- `wellformed(j)` of the state, read live (R33). -/
def State.wellFormed (s : State) (j : Nat) : Bool := (s.slotAt j).wellFormed s.bufmax

/-- `eligible(j)` of the state, read live (R33). -/
def State.eligible (s : State) (j : Nat) : Bool := (s.slotAt j).eligible s.bufmax

/-- `{s | P(s)}`: the mask of the slots below `n` with P (00_scope.md R12). The masks are NSCHEMA bits, NSCHEMA ≤ 8. -/
def slotSet (n : Nat) (p : Nat → Bool) : BitVec 8 :=
  BitVec.ofFnLE fun j : Fin 8 => decide (j.val < n) && p j.val

/-- `min{s | P(s)}` over the slots below `n`, none when the set is empty (00_scope.md R12). -/
def firstSlot (n : Nat) (p : Nat → Bool) : Option Nat := (List.range n).find? p

/-- The registers at the addresses below 0x10 (R24). -/
def globalReg : Nat → Option Reg
  | 0x00 => some .param0
  | 0x01 => some .param1
  | 0x02 => some .status
  | 0x03 => some .ie
  | 0x04 => some .fsmstat
  | 0x05 => some .fsmpos
  | 0x06 => some .outinfo
  | 0x07 => some .outlen
  | 0x08 => some .cfgerr
  | 0x09 => some .ckstat
  | 0x0A => some .ckres
  | 0x0B => some .ckcnt
  | 0x0C => some .cand
  | _ => none

/-- The register at offset `k` of slot `j`, address `0x10 + 8j + k` (R24). -/
def slotReg (j : Nat) : Nat → Option Reg
  | 0 => some (.scfg j)
  | 1 => some (.explen j)
  | 2 => some (.rhdr01 j)
  | 3 => some (.rhdr23 j)
  | 4 => some (.nhdr01 j)
  | 5 => some (.nhdr23 j)
  | _ => none

/-- The register at an address of an instance with `n` slots, none where the address is unmapped (R24). -/
def regAt (n : Nat) (a : BitVec 8) : Option Reg :=
  if a.toNat < 0x10 then globalReg a.toNat
  else if (a.toNat - 0x10) / 8 < n then slotReg ((a.toNat - 0x10) / 8) ((a.toNat - 0x10) % 8)
  else none

/-- The register is read-only: WRREG to it raises READ_ONLY (R23, R24). -/
def Reg.readOnly : Reg → Bool
  | .param0 | .param1 | .fsmstat | .fsmpos | .outinfo | .outlen | .cfgerr | .ckstat | .ckres | .ckcnt | .cand => true
  | .status | .ie | .scfg _ | .explen _ | .rhdr01 _ | .rhdr23 _ | .nhdr01 _ | .nhdr23 _ => false

/-- FSM as FSMSTAT shows it: IDLE = 0, HDR = 1, ACCUM = 2 (R39, R42). -/
def Fsm.bits : Fsm → BitVec 2
  | .idle => 0
  | .hdr => 1
  | .accum => 2

end Sys2Proof.Machine
end

