-- ==== Sys2Proof/Machine/Flags.lean ====
section
/-! DEFINITION. The computed flags: STATUS and its mirrors (10_state.md R35), write-1-to-clear (42_host_access.md R153),
CFGERR (R34), CK_OK (40_checksum.md R109) and the interrupt output (60_exceptions.md R176). -/

namespace Sys2Proof.Machine

/-- STATUS.BUSY: `FSM ≠ IDLE` (R35). -/
def State.busy (s : State) : Bool := s.fsm != .idle

/-- STATUS.OUTCK: `OUTV and OUT_CKOK` (R35). -/
def State.outck (s : State) : Bool := s.outv && s.outCkok

/-- STATUS as RDREG reads it: `{000, ERR, OVR, OVF, MISM, NOISE, 00000, BUSY, OUTCK, OUTV}` (R152). -/
def State.statusWord (s : State) : Word :=
  0#3 ++ BitVec.ofBool s.err ++ BitVec.ofBool s.ovr ++ BitVec.ofBool s.ovf ++ BitVec.ofBool s.mism ++
    BitVec.ofBool s.noise ++ 0#5 ++ BitVec.ofBool s.busy ++ BitVec.ofBool s.outck ++ BitVec.ofBool s.outv

/-- `for i in 8..12: if d[i] = 1 then STATUS[i] <- 0`; the other bits of d are ignored (R153). -/
def State.clearSticky (s : State) (d : Word) : State :=
  { s with
    noise := s.noise && !d.getLsbD 8
    mism := s.mism && !d.getLsbD 9
    ovf := s.ovf && !d.getLsbD 10
    ovr := s.ovr && !d.getLsbD 11
    err := s.err && !d.getLsbD 12 }

/-- CFGERR: bit j is `EN_j and not wellformed(j)`, bits [15:NSCHEMA] are 0 (R34). -/
def State.cfgerr (s : State) : Word :=
  (slotSet s.nschema fun j => (s.slotAt j).en && !s.wellFormed j).zeroExtend 16

/-- CK_OK, the validity output of the standalone checksum unit (40_checksum.md R109). -/
def State.ckOk (s : State) : Bool :=
  match s.ckKind with
  | .sum => decide (1 ≤ s.ckCnt.toNat) && s.ckB1 == s.ckP1.extractLsb' 0 8
  | .crc => decide (2 ≤ s.ckCnt.toNat) && s.ckB1 ++ s.ckB2 == s.ckP2

/-- The level interrupt output (R176). -/
def State.irq (s : State) : Bool :=
  (s.outv && s.ie.getLsbD 0) || (s.noise && s.ie.getLsbD 8) || (s.mism && s.ie.getLsbD 9) ||
    (s.ovf && s.ie.getLsbD 10) || (s.ovr && s.ie.getLsbD 11) || (s.err && s.ie.getLsbD 12)

/-- The implemented bits of IE: 0 and 8 to 12 (R38). -/
def ieMask : Word := 0x1F01

/-- The implemented bits of SCFG_s: 0 to 7 (R27). -/
def scfgMask : Word := 0x00FF

end Sys2Proof.Machine
end

