-- ==== Sys2Proof/Machine/Checksum.lean ====
section
/-! DEFINITION. The checksum engine (40_checksum.md): the pure functions of its section 1 and the two operations of the
standalone unit, CKINIT and CKFEED. -/

namespace Sys2Proof.Machine

/-- `sum_step(a, b) = (a + b) mod 256` (R101). -/
def sumStep (a b : Byte) : Byte := a + b

/-- `sum8(s)`: the sum of the bytes mod 256, 0x00 for no byte (R101). -/
def sum8 (bs : List Byte) : Byte := bs.foldl sumStep 0x00

/-- One bit of the CRC byte step: `if c[0] = 1 then (c >> 1) xor 0xA001 else c >> 1` (R102; the spec marks the reflected
form and crc16's initial value as general knowledge: PRESUMED, notes/assumptions/11.md). -/
def crcShift (c : Word) : Word := if c.getLsbD 0 then (c >>> 1) ^^^ 0xA001#16 else c >>> 1

/-- `n` repetitions of the bit step (R102). -/
def crcShifts : Nat → Word → Word
  | 0, c => c
  | n + 1, c => crcShifts n (crcShift c)

/-- `crc_step(c, b)` (R102). -/
def crcStep (c : Word) (b : Byte) : Word := crcShifts 8 (c ^^^ b.zeroExtend 16)

/-- `crc16(s)`: the fold of the byte step from 0xFFFF, no final xor (R103). -/
def crc16 (bs : List Byte) : Word := bs.foldl crcStep 0xFFFF

/-- `compute(kind, s)`: the checksum bytes in wire order, the CRC low byte first (R104, 20_memory.md R61). -/
def compute : Kind → List Byte → List Byte
  | .sum, bs => [sum8 bs]
  | .crc, bs => [(crc16 bs).extractLsb' 0 8, (crc16 bs).extractLsb' 8 8]

/-- `validate(kind, f)`: false when f is shorter than its checksum, else whether its trailing bytes are the checksum of
all the bytes before them (R105). -/
def validate (kind : Kind) (f : List Byte) : Bool :=
  decide (ckLen kind ≤ f.length) &&
    compute kind (f.take (f.length - ckLen kind)) == f.drop (f.length - ckLen kind)

/-- The accumulator's initial value for a kind (R107). -/
def ckInitial : Kind → Word
  | .sum => 0x0000
  | .crc => 0xFFFF

/-- The accumulator after one more byte (R108). -/
def ckAccumulate (kind : Kind) (acc : Word) (b : Byte) : Word :=
  match kind with
  | .crc => crcStep acc b
  | .sum => (sumStep (acc.extractLsb' 0 8) b).zeroExtend 16

/-- The count of bytes fed, saturating at 0xFFFF (R108). -/
def ckCountNext (cnt : Word) : Word := if cnt = 0xFFFF#16 then 0xFFFF#16 else cnt + 1

/-- CKINIT (R107). -/
def execCkinit (kind : Kind) (s : State) : Host.Outcome State Fault Refusal :=
  .next <| State.respond
    { s with
      ckKind := kind
      ckCnt := 0
      ckAcc := ckInitial kind
      ckP1 := ckInitial kind
      ckP2 := ckInitial kind
      ckB1 := 0x00
      ckB2 := 0x00 } .ok 0x0000

/-- CKFEED (R108); every right-hand side reads the state before the operation. -/
def execCkfeed (byte : Byte) (s : State) : Host.Outcome State Fault Refusal :=
  .next <| State.respond
    { s with
      ckP2 := s.ckP1
      ckP1 := s.ckAcc
      ckAcc := ckAccumulate s.ckKind s.ckAcc byte
      ckB2 := s.ckB1
      ckB1 := byte
      ckCnt := ckCountNext s.ckCnt } .ok 0x0000

end Sys2Proof.Machine
end

