-- ==== Sys2Proof/Machine/HostAccess.lean ====
section
/-! DEFINITION. The host access operations (42_host_access.md): NOP, RDREG, WRREG, FRREAD, RELEASE and SRESET. -/

namespace Sys2Proof.Machine

/-- `readreg` (R152). Reserved bits of a mapped register read 0 (10_state.md R23). -/
def State.readReg (s : State) : Reg → Word
  | .param0 => BitVec.ofNat 16 s.nschema
  | .param1 => BitVec.ofNat 16 s.bufmax
  | .status => s.statusWord
  | .ie => s.ie &&& ieMask
  | .fsmstat => 0#10 ++ BitVec.ofBool s.rq ++ s.slot ++ s.fsm.bits
  | .fsmpos => s.pos
  | .outinfo => 0#6 ++ BitVec.ofBool s.outCkok ++ BitVec.ofBool s.outv ++ 0#5 ++ s.outSchema
  | .outlen => s.outLen
  | .cfgerr => s.cfgerr
  | .ckstat => 0#14 ++ BitVec.ofBool s.ckOk ++ BitVec.ofBool s.ckKind.bit
  | .ckres => s.ckAcc
  | .ckcnt => s.ckCnt
  | .cand => s.candn ++ s.candr
  | .scfg j => (s.slotAt j).scfg &&& scfgMask
  | .explen j => (s.slotAt j).explen
  | .rhdr01 j => (s.slotAt j).rhdr01
  | .rhdr23 j => (s.slotAt j).rhdr23
  | .nhdr01 j => (s.slotAt j).nhdr01
  | .nhdr23 j => (s.slotAt j).nhdr23

/-- Slot `j` replaced. -/
def State.setSlot (s : State) (j : Nat) (x : Slot) : State := { s with slots := s.slots.set j x }

/-- The write of WRREG to a register that is not read-only (R153). A write to a read-only register does not get here:
WRREG raises READ_ONLY. -/
def State.writeReg (s : State) (d : Word) : Reg → State
  | .status => s.clearSticky d
  | .ie => { s with ie := d &&& ieMask }
  | .scfg j => s.setSlot j { s.slotAt j with scfg := d &&& scfgMask }
  | .explen j => s.setSlot j { s.slotAt j with explen := d }
  | .rhdr01 j => s.setSlot j { s.slotAt j with rhdr01 := d }
  | .rhdr23 j => s.setSlot j { s.slotAt j with rhdr23 := d }
  | .nhdr01 j => s.setSlot j { s.slotAt j with nhdr01 := d }
  | .nhdr23 j => s.setSlot j { s.slotAt j with nhdr23 := d }
  | .param0 | .param1 | .fsmstat | .fsmpos | .outinfo | .outlen | .cfgerr | .ckstat | .ckres | .ckcnt | .cand => s

/-- NOP (R150). -/
def execNop (s : State) : Host.Outcome State Fault Refusal := .next (s.respond .ok 0x0000)

/-- RDREG (R151). -/
def execRdreg (addr : BitVec 8) (s : State) : Host.Outcome State Fault Refusal :=
  match regAt s.nschema addr with
  | none => .next (s.raise .badAddr)
  | some r => .next (s.respond .ok (s.readReg r))

/-- WRREG (R153): BAD_ADDR before READ_ONLY (60_exceptions.md R172). -/
def execWrreg (addr : BitVec 8) (data : Word) (s : State) : Host.Outcome State Fault Refusal :=
  match regAt s.nschema addr with
  | none => .next (s.raise .badAddr)
  | some r => if r.readOnly then .next (s.raise .readOnly) else .next ((s.writeReg data r).respond .ok 0x0000)

/-- FRREAD (R155): NO_FRAME before RANGE (60_exceptions.md R172). -/
def execFrread (idx : Word) (s : State) : Host.Outcome State Fault Refusal :=
  if s.outv = false then .next (s.raise .noFrame)
  else if s.outLen.toNat ≤ idx.toNat then .next (s.raise .range)
  else
    match s.readObuf idx.toNat with
    | .ok b => .next (s.respond .ok (b.zeroExtend 16))
    | .error f => .fault f

/-- RELEASE (R156). -/
def execRelease (s : State) : Host.Outcome State Fault Refusal :=
  if s.outv = false then .next (s.raise .noFrame)
  else
    .next <| State.respond
      { s with outv := false, outLen := 0, outSchema := 0, outCkok := false } .ok 0x0000

/-- SRESET (R157): the reset event (70_reset_and_hazards.md R190), then the response. -/
def execSreset (s : State) : Host.Outcome State Fault Refusal := .next (s.resetEvent.respond .ok 0x0000)

end Sys2Proof.Machine
end

