-- ==== Sys2Proof/Machine/Reassembler.lean ====
section
/-! DEFINITION. The frame-boundary detector and reassembly buffer (41_reassembler.md): PUSH with its procedures START,
HDRBYTE, ACCBYTE and EMIT, and CANCEL. -/

namespace Sys2Proof.Machine

/-- CN of HDRBYTE: the noise candidates that still match when byte k = POS is b (R124). -/
def State.noiseMatches (s : State) (b : Byte) : BitVec 8 :=
  slotSet s.nschema fun j =>
    s.candn.getLsbD j && s.eligible j && decide (s.pos.toNat < (s.slotAt j).nhlen) && (s.slotAt j).nh s.pos.toNat == b

/-- CR of HDRBYTE: the response candidates that still match when byte k = POS is b (R124). -/
def State.responseMatches (s : State) (b : Byte) : BitVec 8 :=
  slotSet s.nschema fun j =>
    s.candr.getLsbD j && s.eligible j && decide (s.pos.toNat < (s.slotAt j).rhlen) && (s.slotAt j).rh s.pos.toNat == b

/-- The lowest slot of CN whose noise header is complete with byte k = POS (R124). -/
def State.noiseComplete (s : State) (b : Byte) : Option Nat :=
  firstSlot s.nschema fun j => (s.noiseMatches b).getLsbD j && (s.slotAt j).nhlen == s.pos.toNat + 1

/-- `min{s in CR | RHLEN_s = k+1}`, none when no response header is complete with byte k = POS (R124). -/
def State.responseComplete (s : State) (b : Byte) : Option Nat :=
  firstSlot s.nschema fun j => (s.responseMatches b).getLsbD j && (s.slotAt j).rhlen == s.pos.toNat + 1

/-- A byte appended to the current frame: `MemWrite(RBUF, POS, 1, b); POS <- POS + 1` (R124, R126). RBUF has the
indexes 0 to BUFMAX−1 (20_memory.md R60). -/
def State.append (s : State) (b : Byte) : Except Fault State :=
  match s.writeRbuf s.pos.toNat b with
  | .ok t => .ok { t with pos := s.pos + 1 }
  | .error f => .error f

/-- The header match ends in an accumulation against slot `j` (R124). -/
def State.toAccum (s : State) (j : Nat) : State :=
  { s with slot := BitVec.ofNat 3 j, candr := 0, candn := 0, fsm := .accum }

/-- The header match goes on with the given candidates (R124). -/
def State.keepCandidates (s : State) (cn cr : BitVec 8) : State := { s with candn := cn, candr := cr }

/-- A noise header is complete: `STATUS.NOISE <- 1; GOIDLE()` (R124). -/
def State.dropNoise (s : State) : State := State.goIdle { s with noise := true }

/-- No header can match any more: `STATUS.MISM <- 1; GOIDLE()` (R124). -/
def State.dropMismatch (s : State) : State := State.goIdle { s with mism := true }

/-- The overflow drop: `STATUS.OVF <- 1; GOIDLE()` (R126, R130). -/
def State.dropOverflow (s : State) : State := State.goIdle { s with ovf := true }

/-- The two branches of HDRBYTE after the noise and the mismatch ones: a completed response header starts the
accumulation, else the match goes on (R124). -/
def State.hdrAdvance (s : State) (b : Byte) : Except Fault State :=
  match s.append b with
  | .error f => .error f
  | .ok t =>
    match s.responseComplete b with
    | some j => .ok (t.toAccum j)
    | none => .ok (t.keepCandidates (s.noiseMatches b) (s.responseMatches b))

/-- What one byte does to a header match, in the order of priority of R125. -/
inductive HdrResult where
  /-- A noise header is complete. -/
  | noise
  /-- No candidate is left. -/
  | mismatch
  /-- A response header is complete, or candidates are left. -/
  | advance
  deriving DecidableEq, Repr

/-- The branch HDRBYTE takes (R124, R125). -/
def State.hdrResult (s : State) (b : Byte) : HdrResult :=
  if (s.noiseComplete b).isSome then .noise
  else if (s.responseComplete b).isSome then .advance
  else if s.noiseMatches b = 0 ∧ s.responseMatches b = 0 then .mismatch
  else .advance

/-- START up to its call of HDRBYTE: every eligible slot becomes a candidate (R123). -/
def State.seed (s : State) : State :=
  { s with
    candr := slotSet s.nschema fun j => s.eligible j
    candn := slotSet s.nschema fun j => s.eligible j && decide (1 ≤ (s.slotAt j).nhlen)
    pos := 0
    fsm := .hdr }

/-- START(b) (R123). Its HDRBYTE has k = 0, so a mismatch there examines nothing afresh (R124). -/
def State.start (s : State) (b : Byte) : Except Fault State :=
  match s.seed.hdrResult b with
  | .noise => .ok s.seed.dropNoise
  | .mismatch => .ok s.seed.dropMismatch
  | .advance => s.seed.hdrAdvance b

/-- HDRBYTE(b, sof) (R124). -/
def State.hdrByte (s : State) (b : Byte) (sof : Bool) : Except Fault State :=
  match s.hdrResult b with
  | .noise => .ok s.dropNoise
  | .mismatch => if sof && decide (0 < s.pos.toNat) then s.dropMismatch.start b else .ok s.dropMismatch
  | .advance => s.hdrAdvance b

/-- EMIT(j, L) (R127). The slot's KIND is read as it is now (R26, R29). -/
def State.emit (s : State) (j : Nat) (len : Nat) : State :=
  if s.outv then { s with ovr := true }
  else
    { s with
      obuf := s.rbuf.copy s.obuf len
      outLen := BitVec.ofNat 16 len
      outSchema := BitVec.ofNat 3 j
      outCkok := validate (s.slotAt j).kind (s.rbuf.bytes len)
      outv := true }

/-- The end of a completed frame: `EMIT(j, L); GOIDLE(); RQ <- 1` (R126). -/
def State.complete (s : State) (j : Nat) (len : Nat) : State := { (s.emit j len).goIdle with rq := true }

/-- ACCBYTE(b, sof) (R126). -/
def State.accByte (s : State) (b : Byte) (sof : Bool) : Except Fault State :=
  let j := s.slot.toNat
  let explen := (s.slotAt j).explen.toNat
  if s.wellFormed j = false ∨ explen ≤ s.pos.toNat then
    if sof then s.dropOverflow.start b else .ok s.dropOverflow
  else
    match s.append b with
    | .error f => .error f
    | .ok t => if s.pos.toNat + 1 = explen then .ok (t.complete j explen) else .ok t

/-- `RQ <- 0` (R122). -/
def State.clearRq (s : State) : State := { s with rq := false }

/-- The byte procedures of PUSH, with `sof = SOF or RQ` and RQ cleared first (R122). -/
def State.pushByte (s : State) (sof : Bool) (b : Byte) : Except Fault State :=
  match s.fsm with
  | .idle => if sof || s.rq then s.clearRq.start b else .ok s.clearRq
  | .hdr => s.clearRq.hdrByte b (sof || s.rq)
  | .accum => s.clearRq.accByte b (sof || s.rq)

/-- PUSH (R122). -/
def execPush (sof : Bool) (byte : Byte) (s : State) : Host.Outcome State Fault Refusal :=
  match s.pushByte sof byte with
  | .ok t => .next (t.respond .ok 0x0000)
  | .error f => .fault f

/-- CANCEL (R133). -/
def execCancel (s : State) : Host.Outcome State Fault Refusal :=
  .next (s.goIdle.clearRq.respond .ok 0x0000)

end Sys2Proof.Machine
end

