-- ==== Sys2Proof/Machine/Dispatch.lean ====
section
/-! DEFINITION. Which meaning each operation has (30_encoding.md R82). -/

namespace Sys2Proof.Machine

def exec (i : Instr) (s : State) : Host.Outcome State Fault Refusal :=
  match i with
  | .nop => Sys2Proof.Machine.execNop s
  | .push sof byte => Sys2Proof.Machine.execPush sof byte s
  | .wrreg addr data => Sys2Proof.Machine.execWrreg addr data s
  | .rdreg addr => Sys2Proof.Machine.execRdreg addr s
  | .cancel => Sys2Proof.Machine.execCancel s
  | .release => Sys2Proof.Machine.execRelease s
  | .ckinit kind => Sys2Proof.Machine.execCkinit kind s
  | .ckfeed byte => Sys2Proof.Machine.execCkfeed byte s
  | .frread idx => Sys2Proof.Machine.execFrread idx s
  | .sreset => Sys2Proof.Machine.execSreset s

end Sys2Proof.Machine
end

