-- ==== Sys2Proof/Machine/Accept.lean ====
section
/-! DEFINITION. What the block does with one input, and sequences of operations. `step` only calls `accept`; it stands
here, not in Step.lean, so that it can be mended. -/

namespace Sys2Proof.Machine

/-- The block performs one operation word: the spec's total function `step(S, w)` (00_scope.md R15). A word that is no
operation raises ILLEGAL (30_encoding.md R83, R85; 60_exceptions.md R171). -/
def performWord (w : OpWord) (s : State) : Host.Outcome State Fault Refusal :=
  match decode w with
  | .ok i => exec i s
  | .error _ => .next (s.raise .illegal)

/-- The block takes the next input from its port (20_memory.md R63). With nothing presented it holds its state
(60_exceptions.md R185). An asserted reset input is the reset event (70_reset_and_hazards.md R190). -/
def accept (s : State) : Host.Outcome State Fault Refusal :=
  match s.port with
  | [] => .next s
  | .reset :: rest => .next ({ s with port := rest } : State).resetEvent
  | .op w :: rest => performWord w { s with port := rest }

/-- The state with an instruction word presented before everything else on the port. -/
def present (s : State) (w : OpWord) : State := { s with port := .op w :: s.port }

/-- A sequence of operations performed in order, stopping at a fault or a refusal (20_memory.md R63, R64). -/
def execAll : List Instr → State → Host.Outcome State Fault Refusal
  | [], s => .next s
  | i :: is, s =>
    match exec i s with
    | .next t => execAll is t
    | .fault f => .fault f
    | .refused r => .refused r

end Sys2Proof.Machine
end

