-- ==== Sys2Proof/Machine/Step.lean ====
section
/-! DEFINITION. One step of the block, and the place a step takes its instruction from: the operation port. -/

namespace Sys2Proof.Machine

/-- One step: the block accepts and performs the next input of its port, if there is one. -/
def step (s : State) : Host.Outcome State Fault Refusal := accept s

/-- The instruction whose low `nbits` bits are those of `w`, the others zero, presented on the port so that the next
step performs it. -/
def State.withFetchWord (s : State) (nbits w : Nat) : State := present s (BitVec.ofNat 32 (w % 2 ^ nbits))

end Sys2Proof.Machine
end

