-- ==== Sys2Proof/Machine/Pseudo.lean ====
section
/-! DEFINITION. The pseudo-operations of 30_encoding.md R90, each the list of operations it expands to, in order, and the
register addresses they use (10_state.md R24). -/

namespace Sys2Proof.Machine

/-- `0x10 + 8j + offset`, the address of a register of slot j (10_state.md R24). -/
def slotAddr (j offset : Nat) : BitVec 8 := BitVec.ofNat 8 (0x10 + 8 * j + offset)

/-- `CHUNK b0, ..., bn-1`: PUSH.F b0, then PUSH of the others; nothing for no byte (R90, 41_reassembler.md R120). -/
def chunk : List Byte → List Instr
  | [] => []
  | b :: bs => .push true b :: bs.map (.push false)

/-- The operations of a sequence of chunks (R120). -/
def chunks (cs : List (List Byte)) : List Instr := cs.flatMap chunk

/-- `CKINIT.k`, then CKFEED of every byte: the common part of CKCOMPUTE and CKVALIDATE (R90). -/
def ckRun (kind : Kind) (bs : List Byte) : List Instr := .ckinit kind :: bs.map .ckfeed

/-- `CKCOMPUTE.k b0, ..., bn-1`: the last response is the checksum, CKRES (R90). -/
def ckCompute (kind : Kind) (bs : List Byte) : List Instr := ckRun kind bs ++ [.rdreg 0x0A]

/-- `CKVALIDATE.k b0, ..., bn-1`: bit 1 of the last response, CKSTAT, is the validity (R90). -/
def ckValidate (kind : Kind) (bs : List Byte) : List Instr := ckRun kind bs ++ [.rdreg 0x09]

/-- `ARM j, ...`: the slot is disarmed first and armed last (R90). The header pairs are given as the registers hold
them (10_state.md R32); the last write is `{nhlen[2:0], rhlen[2:0], kind, 1}`. -/
def arm (j : Nat) (kind : Kind) (rh01 rh23 : Word) (rhlen : BitVec 3) (nh01 nh23 : Word) (nhlen : BitVec 3)
    (explen : Word) : List Instr :=
  [ .wrreg (slotAddr j 0) 0x0000,
    .wrreg (slotAddr j 1) explen,
    .wrreg (slotAddr j 2) rh01,
    .wrreg (slotAddr j 3) rh23,
    .wrreg (slotAddr j 4) nh01,
    .wrreg (slotAddr j 5) nh23,
    .wrreg (slotAddr j 0) (0#8 ++ nhlen ++ rhlen ++ BitVec.ofBool kind.bit ++ 1#1) ]

/-- `CLRSTATUS` (R90). -/
def clrStatus : List Instr := [.wrreg 0x02 0x1F00]

/-- `READFRAME` for a held frame of the given OUT_LEN (R90). -/
def readFrame (outLen : Nat) : List Instr :=
  [.rdreg 0x06, .rdreg 0x07] ++ (List.range outLen).map (fun i => .frread (BitVec.ofNat 16 i)) ++ [.release]

/-- The assembler's spelling of an operation, numbers in decimal (R89). -/
def asm : Instr → String
  | .nop => "NOP"
  | .push true b => "PUSH.F " ++ toString b.toNat
  | .push false b => "PUSH " ++ toString b.toNat
  | .wrreg a d => "WRREG " ++ toString a.toNat ++ ", " ++ toString d.toNat
  | .rdreg a => "RDREG " ++ toString a.toNat
  | .cancel => "CANCEL"
  | .release => "RELEASE"
  | .ckinit .sum => "CKINIT.SUM"
  | .ckinit .crc => "CKINIT.CRC"
  | .ckfeed b => "CKFEED " ++ toString b.toNat
  | .frread i => "FRREAD " ++ toString i.toNat
  | .sreset => "SRESET"

end Sys2Proof.Machine
end

