-- ==== Sys2Proof/Safety.lean ====
section
/-! DEFINITION. What counts as a safe state and a safe run of the block, and the terms the statements use: the
invariants of 10_state.md R46, what no operation can observe (R41), interleavings of the two producers (20_memory.md
R63), and reference forms of the CRC. -/

namespace Sys2Proof.Machine

/-- The state is one of an instance the spec allows (00_scope.md R7, R8). -/
abbrev State.Legal (s : State) : Prop := Config.Legal s.nschema s.bufmax

/-- The clauses of R46 about the FSM registers. -/
abbrev State.FsmInv (s : State) : Prop :=
  (s.fsm = .idle → s.pos = 0 ∧ s.slot = 0 ∧ s.candr = 0 ∧ s.candn = 0) ∧
  (s.fsm = .hdr → 1 ≤ s.pos.toNat ∧ s.pos.toNat ≤ 3 ∧ s.candr ||| s.candn ≠ 0 ∧ s.rq = false) ∧
  (s.fsm = .accum → s.candr = 0 ∧ s.candn = 0 ∧ 1 ≤ s.pos.toNat ∧ s.pos.toNat ≤ s.bufmax - 1 ∧ s.rq = false) ∧
  s.slot.toNat < s.nschema ∧
  (s.rq = true → s.fsm = .idle)

/-- The clauses of R46 about the output frame. -/
abbrev State.OutInv (s : State) : Prop :=
  (s.outv = false → s.outLen = 0 ∧ s.outSchema = 0 ∧ s.outCkok = false) ∧
  (s.outv = true → 2 ≤ s.outLen.toNat ∧ s.outLen.toNat ≤ s.bufmax)

/-- The clause of R46 about the standalone checksum unit. -/
abbrev State.CkInv (s : State) : Prop :=
  s.ckKind = .sum →
    s.ckAcc.extractLsb' 8 8 = 0 ∧ s.ckP1.extractLsb' 8 8 = 0 ∧ s.ckP2.extractLsb' 8 8 = 0

/-- The invariants of R46, in an instance the spec allows. -/
abbrev State.SpecInv (s : State) : Prop := s.Legal ∧ s.FsmInv ∧ s.OutInv ∧ s.CkInv

/-- The model's buffers are in their canonical form and list only bytes that exist (20_memory.md R60). -/
abbrev State.BuffersInv (s : State) : Prop :=
  (s.rbuf.wf ∧ ∀ c ∈ s.rbuf, c.1 < s.bufmax) ∧ (s.obuf.wf ∧ ∀ c ∈ s.obuf, c.1 < s.bufmax)

/-- The reserved bits of IE and of every SCFG_s are 0 (10_state.md R23, R27, R38), and the candidate masks have no bit
at or above NSCHEMA (R43). -/
abbrev State.ReservedInv (s : State) : Prop :=
  s.ie &&& ~~~ieMask = 0 ∧ (∀ x ∈ s.slots, x.scfg &&& ~~~scfgMask = 0) ∧
    s.candr.toNat < 2 ^ s.nschema ∧ s.candn.toNat < 2 ^ s.nschema

/-- The two states differ at most in buffer bytes that no operation can observe (R41): RBUF at or past POS, OBUF at or
past OUT_LEN or while no frame is held. -/
def State.SameButUnobservable (s t : State) : Prop :=
  t = { s with rbuf := t.rbuf, obuf := t.obuf } ∧
  (s.rbuf.wf ∧ s.obuf.wf ∧ t.rbuf.wf ∧ t.obuf.wf) ∧
  (∀ i < s.pos.toNat, s.rbuf.read i = t.rbuf.read i) ∧
  (s.outv = true → ∀ i < s.outLen.toNat, s.obuf.read i = t.obuf.read i)

/-- The same kind of outcome, with the same reason or with related states. -/
def outcomeRel (r : State → State → Prop) :
    Host.Outcome State Fault Refusal → Host.Outcome State Fault Refusal → Prop
  | .next s, .next t => r s t
  | .fault f, .fault g => f = g
  | .refused x, .refused y => x = y
  | _, _ => False

/-- `zs` is an interleaving of `xs` and `ys` that keeps each one's own order (20_memory.md R63, 93 U10;
notes/assumptions/8.md). -/
inductive Interleaving {α : Type} : List α → List α → List α → Prop where
  | nil : Interleaving [] [] []
  | left {x : α} {xs ys zs : List α} : Interleaving xs ys zs → Interleaving (x :: xs) ys (x :: zs)
  | right {y : α} {xs ys zs : List α} : Interleaving xs ys zs → Interleaving xs (y :: ys) (y :: zs)

/-- PUSH, the operation of the chunk path (R63). -/
def isPush : Instr → Bool
  | .push _ _ => true
  | .nop | .wrreg _ _ | .rdreg _ | .cancel | .release | .ckinit _ | .ckfeed _ | .frread _ | .sreset => false

/-- The host operations that only look at the block or use its standalone checksum unit. -/
def isObserver : Instr → Bool
  | .nop | .rdreg _ | .ckinit _ | .ckfeed _ | .frread _ => true
  | .push _ _ | .wrreg _ _ | .cancel | .release | .sreset => false

/-- The part of the state the byte stream acts on: all but IE, STATUS.ERR, the checksum unit and the response. -/
def State.stream (s : State) : State :=
  { s with ie := 0, err := false, ckKind := .crc, ckCnt := 0, ckAcc := 0, ckP1 := 0, ckP2 := 0, ckB1 := 0, ckB2 := 0,
           response := none }

/-- The responses of a sequence of operations, up to the first fault or refusal. -/
def responses : List Instr → State → List (Option Response)
  | [], _ => []
  | i :: is, s =>
    match exec i s with
    | .next t => t.response :: responses is t
    | .fault _ => []
    | .refused _ => []

/-- The bytes of a slot's response header (10_state.md R30, R32). -/
def Slot.rhBytes (x : Slot) : List Byte := (List.range x.rhlen).map x.rh

/-- The bytes of a slot's noise header (R30, R32). -/
def Slot.nhBytes (x : Slot) : List Byte := (List.range x.nhlen).map x.nh

/-- Slot `j` is in CN of HDRBYTE(b): its noise header still matches when byte k = POS is b (41_reassembler.md R124). -/
def State.NoiseStillMatches (s : State) (b : Byte) (j : Nat) : Prop :=
  s.candn.getLsbD j = true ∧ s.eligible j = true ∧ s.pos.toNat < (s.slotAt j).nhlen ∧ (s.slotAt j).nh s.pos.toNat = b

/-- Slot `j` is in CR of HDRBYTE(b): its response header still matches when byte k = POS is b (R124). -/
def State.ResponseStillMatches (s : State) (b : Byte) (j : Nat) : Prop :=
  s.candr.getLsbD j = true ∧ s.eligible j = true ∧ s.pos.toNat < (s.slotAt j).rhlen ∧ (s.slotAt j).rh s.pos.toNat = b

/-- The address is unmapped in an instance with `n` slots (10_state.md R24). -/
abbrev Unmapped (n a : Nat) : Prop :=
  (0x0D ≤ a ∧ a ≤ 0x0F) ∨ (0x10 ≤ a ∧ (n ≤ (a - 0x10) / 8 ∨ 6 ≤ (a - 0x10) % 8))

/-- The address is that of a read-only register (R24). -/
abbrev ReadOnlyAddr (a : Nat) : Prop := a ≤ 0x01 ∨ (0x04 ≤ a ∧ a ≤ 0x0C)

/-- The words of one operation (30_encoding.md R82, R83): of the words whose OP is that of `pattern`, those that
`(w and mask) = pattern` selects are performed as `op` reads them, and every other one raises ILLEGAL and does nothing
else. -/
def WordsMean (pattern mask : OpWord) (op : OpWord → Instr) : Prop :=
  ∀ (w : OpWord) (s : State), w >>> 28 = pattern >>> 28 →
    performWord w s =
      if w &&& mask = pattern then exec (op w) s
      else .next { s with err := true, response := some ⟨.illegal, 0x0000⟩ }

/-- One bit through the unreflected shift register of x^16 + x^15 + x^2 + 1, most significant bit first: the textbook
form of the CRC's polynomial division (40_checksum.md R102 names the polynomial). -/
def lfsrStep (r : Word) (bit : Bool) : Word :=
  if r.msb ^^ bit then (r <<< 1) ^^^ 0x8005#16 else r <<< 1

/-- The bit of a Boolean as a number. -/
def bit (b : Bool) : Nat := if b then 1 else 0

end Sys2Proof.Machine
end

