-- ==== Sys2Proof/Certificates/Slice0/Obligations.lean ====
section
/-! DEFINITION. The statements about the block, for the provers. Each docstring names the rule of spec/ it formalises; a
statement about a rule that the spec marks as its own inference (`[derived: ...]`), or about a choice of the model
(notes/assumptions/<n>.md), says so. -/

open Sys2Proof Sys2Proof.Machine

/-! ### Encoding (30_encoding.md) -/

/-- Decoding the encoding of an operation gives the operation, with every operand at every value its field admits
(R81, R82, R84 and R89 together). -/
def Obligations.DecodeOfEncode : Prop := ∀ i : Instr, decode (encode i) = .ok i

/-- A word that decodes is the encoding of what it decodes to: no reserved bit is ignored (R82, R83 together). -/
def Obligations.EncodeOfDecode : Prop := ∀ (w : OpWord) (i : Instr), decode w = .ok i → encode i = w

/-- The decoder accepts exactly the words that one row of the opcode table selects, as the operation of that row, and
refuses exactly those that none selects: R87, which the spec marks as derived from R82, R83 and R85. -/
def Obligations.DecodeAgreesWithOpcodeTable : Prop :=
  ∀ w : OpWord,
    match decode w with
    | .ok i => (rowsSelecting w).map OpRow.mnemonic = [i.mnemonic]
    | .error _ => rowsSelecting w = []

/-- A word with a reserved OP, or that no row of the table selects, raises ILLEGAL and has no other effect (R83, R85). -/
def Obligations.IllegalWordOnlyRaisesIllegal : Prop :=
  ∀ (s : State) (w : OpWord) (rest : List Input), s.port = .op w :: rest →
    (0xA ≤ (w >>> 28).toNat ∨ ∀ r ∈ opTable, w &&& r.mask ≠ r.pattern) →
    step s = .next { s with port := rest, err := true, response := some ⟨.illegal, 0x0000⟩ }

/-- Words the spec writes out decode to the operations it names (R89 and the examples of 40_checksum.md,
41_reassembler.md, 42_host_access.md and 95_test_vectors.md). -/
def Obligations.SpecWordsDecodeAsNamed : Prop :=
  decode 0x00000000 = .ok .nop ∧ decode 0x10000101 = .ok (.push true 0x01) ∧ decode 0x10000003 = .ok (.push false 0x03) ∧
  decode 0x21100014 = .ok (.wrreg 0x11 0x0014) ∧ decode 0x30200000 = .ok (.rdreg 0x02) ∧
  decode 0x40000000 = .ok .cancel ∧ decode 0x50000000 = .ok .release ∧ decode 0x60000001 = .ok (.ckinit .crc) ∧
  decode 0x700000FF = .ok (.ckfeed 0xFF) ∧ decode 0x80000013 = .ok (.frread 19) ∧ decode 0x90000000 = .ok .sreset

/-- A step performs the operation that the first word on the port decodes to, the word taken from the port and nothing
else added; with an empty port it changes nothing (20_memory.md R63; 60_exceptions.md R185; the port as a field of the
state is the model's choice, notes/assumptions/1.md). -/
def Obligations.StepRunsDecodedOperation : Prop :=
  (∀ (s : State) (w : OpWord) (rest : List Input) (i : Instr), s.port = .op w :: rest → decode w = .ok i →
    step s = exec i { s with port := rest }) ∧
  (∀ s : State, s.port = [] → step s = .next s)

/-- Running the machine on a port that holds the encodings of a sequence of operations performs them in port order,
each on the state the one before left (20_memory.md R63, R64; the port as a field of the state is the model's choice,
notes/assumptions/1.md). -/
def Obligations.PortRunsInOrder : Prop :=
  ∀ (is : List Instr) (rest : List Input) (s : State),
    Host.Core.run Sys2Proof.core is.length
      ({ s with port := is.map (fun i => Input.op (encode i)) ++ rest } : State) = execAll is { s with port := rest }

/-! ### Reset (70_reset_and_hazards.md, 10_state.md R47) -/

/-- The reset value of every piece of state, in every instance (R47). The contents of RBUF and OBUF, which R47 leaves
unspecified, are not stated. -/
def Obligations.ResetStateValues : Prop :=
  ∀ n b : Nat,
    let s := State.resetOf n b
    s.nschema = n ∧ s.bufmax = b ∧ (∀ j < n, s.slots[j]? = some ⟨0, 0, 0, 0, 0, 0⟩) ∧ s.ie = 0x0000 ∧
    s.noise = false ∧ s.mism = false ∧ s.ovf = false ∧ s.ovr = false ∧ s.err = false ∧
    s.outv = false ∧ s.outLen = 0 ∧ s.outSchema = 0 ∧ s.outCkok = false ∧
    s.fsm = .idle ∧ s.pos = 0 ∧ s.slot = 0 ∧ s.rq = false ∧ s.candr = 0 ∧ s.candn = 0 ∧
    s.ckKind = .crc ∧ s.ckCnt = 0 ∧ s.ckAcc = 0xFFFF ∧ s.ckP1 = 0xFFFF ∧ s.ckP2 = 0xFFFF ∧ s.ckB1 = 0x00 ∧ s.ckB2 = 0x00

/-- SRESET: its word, and that it completes in every state with every piece of state at its reset value and the response
(OK, 0) (42 R157). The contents of RBUF and OBUF, which the spec leaves unspecified, and the model's own port are not
stated. -/
def Obligations.SresetResetsEverything : Prop :=
  WordsMean 0x90000000 0xFFFFFFFF (fun _ => .sreset) ∧
  ∀ s : State, ∃ t : State, exec .sreset s = .next t ∧
    t = { State.resetOf s.nschema s.bufmax with
            rbuf := t.rbuf, obuf := t.obuf, port := t.port, response := some ⟨.ok, 0x0000⟩ }

/-- The reset input and SRESET have the same effect on every piece of state (70 R190). Three clauses are the model's
choice: that RBUF and OBUF list no byte afterwards, which 10 R41 and R47 leave unspecified (notes/assumptions/4.md), and
that the inputs behind it stay on the port and that the reset input leaves no response (notes/assumptions/7.md). -/
def Obligations.ResetInputIsTheResetEvent : Prop :=
  ∀ (s : State) (rest : List Input), s.port = .reset :: rest →
    step s = .next { State.resetOf s.nschema s.bufmax with port := rest } ∧
    step { s with port := .op 0x90000000 :: rest } =
      .next { State.resetOf s.nschema s.bufmax with port := rest, response := some ⟨.ok, 0x0000⟩ }

/-- How the block behaves right after reset, in every instance: R191, which the spec marks as derived from R47 and
R124. -/
def Obligations.BehaviourAfterReset : Prop :=
  ∀ n b : Nat,
    let s := State.resetOf n b
    (∀ x, exec (.push true x) s = .next { s with mism := true, response := some ⟨.ok, 0x0000⟩ }) ∧
    (∀ x, exec (.push false x) s = .next { s with response := some ⟨.ok, 0x0000⟩ }) ∧
    (∀ i, exec (.frread i) s = .next { s with err := true, response := some ⟨.noFrame, 0x0000⟩ }) ∧
    exec .release s = .next { s with err := true, response := some ⟨.noFrame, 0x0000⟩ } ∧
    s.irq = false ∧
    exec (.rdreg 0x0A) s = .next { s with response := some ⟨.ok, 0xFFFF⟩ } ∧
    exec (.rdreg 0x09) s = .next { s with response := some ⟨.ok, 0x0001⟩ }

/-! ### Host access (42_host_access.md, 10_state.md) -/

/-- NOP: its word, and that it completes in every state and changes nothing but the response (42 R150). -/
def Obligations.NopResult : Prop :=
  WordsMean 0x00000000 0xFFFFFFFF (fun _ => .nop) ∧
  ∀ s : State, exec .nop s = .next { s with response := some ⟨.ok, 0x0000⟩ }

/-- PARAM0 reads NSCHEMA and PARAM1 reads BUFMAX, and no step changes either (10 R25). -/
def Obligations.ParametersAreConstants : Prop :=
  (∀ s : State, s.Legal →
    (∃ w : Word, exec (.rdreg 0x00) s = .next { s with response := some ⟨.ok, w⟩ } ∧ w.toNat = s.nschema ∧
      w.extractLsb' 4 12 = 0) ∧
    (∃ w : Word, exec (.rdreg 0x01) s = .next { s with response := some ⟨.ok, w⟩ } ∧ w.toNat = s.bufmax)) ∧
  (∀ s t : State, step s = .next t → t.nschema = s.nschema ∧ t.bufmax = s.bufmax)

/-- What STATUS and CAND read (10 R35 and R43, the layouts only). -/
def Obligations.StatusAndCandidatesRead : Prop :=
  ∀ s : State,
    (∃ w : Word, exec (.rdreg 0x02) s = .next { s with response := some ⟨.ok, w⟩ } ∧
      w.toNat = bit s.outv + 2 * bit (s.outv && s.outCkok) + 4 * bit (s.fsm != .idle) + 2 ^ 8 * bit s.noise +
        2 ^ 9 * bit s.mism + 2 ^ 10 * bit s.ovf + 2 ^ 11 * bit s.ovr + 2 ^ 12 * bit s.err) ∧
    (∃ w : Word, exec (.rdreg 0x0C) s = .next { s with response := some ⟨.ok, w⟩ } ∧
      w.toNat = s.candr.toNat + 2 ^ 8 * s.candn.toNat)

/-- What FSMSTAT and FSMPOS read, and that both are read-only (10 R42). -/
def Obligations.FsmRegistersRead : Prop :=
  ∀ s : State,
    (∃ w : Word, exec (.rdreg 0x04) s = .next { s with response := some ⟨.ok, w⟩ } ∧
      w.toNat = (match s.fsm with | .idle => 0 | .hdr => 1 | .accum => 2) + 2 ^ 2 * s.slot.toNat + 2 ^ 5 * bit s.rq) ∧
    exec (.rdreg 0x05) s = .next { s with response := some ⟨.ok, s.pos⟩ } ∧
    (∀ d : Word, exec (.wrreg 0x04 d) s = .next { s with err := true, response := some ⟨.readOnly, 0x0000⟩ } ∧
      exec (.wrreg 0x05 d) s = .next { s with err := true, response := some ⟨.readOnly, 0x0000⟩ })

/-- What OUTINFO and OUTLEN read, and that both are read-only (10 R37). -/
def Obligations.OutputRegistersRead : Prop :=
  ∀ s : State,
    (∃ w : Word, exec (.rdreg 0x06) s = .next { s with response := some ⟨.ok, w⟩ } ∧
      w.toNat = s.outSchema.toNat + 2 ^ 8 * bit s.outv + 2 ^ 9 * bit s.outCkok) ∧
    exec (.rdreg 0x07) s = .next { s with response := some ⟨.ok, s.outLen⟩ } ∧
    (∀ d : Word, exec (.wrreg 0x06 d) s = .next { s with err := true, response := some ⟨.readOnly, 0x0000⟩ } ∧
      exec (.wrreg 0x07 d) s = .next { s with err := true, response := some ⟨.readOnly, 0x0000⟩ })

/-- What CKSTAT, CKRES and CKCNT read, that they are read-only, and that bits [15:8] of CKRES are 0 for SUM in a state
that meets the checksum clause of R46 (10 R45). -/
def Obligations.ChecksumRegistersRead : Prop :=
  ∀ s : State,
    (∃ w : Word, exec (.rdreg 0x09) s = .next { s with response := some ⟨.ok, w⟩ } ∧
      w.toNat = (match s.ckKind with | .sum => 0 | .crc => 1) + 2 * bit s.ckOk) ∧
    exec (.rdreg 0x0A) s = .next { s with response := some ⟨.ok, s.ckAcc⟩ } ∧
    exec (.rdreg 0x0B) s = .next { s with response := some ⟨.ok, s.ckCnt⟩ } ∧
    (∀ a d, a = 0x09 ∨ a = 0x0A ∨ a = 0x0B →
      exec (.wrreg a d) s = .next { s with err := true, response := some ⟨.readOnly, 0x0000⟩ }) ∧
    (s.CkInv → s.ckKind = .sum → s.ckAcc.toNat < 2 ^ 8)

/-- CK_OK, as bit 1 of CKSTAT reads it (40 R109). -/
def Obligations.CkOkFormula : Prop :=
  ∀ s : State, ∃ w : Word, exec (.rdreg 0x09) s = .next { s with response := some ⟨.ok, w⟩ } ∧
    (w.getLsbD 1 = true ↔ s.ckOk = true) ∧
    (s.ckOk = true ↔
      (s.ckKind = .sum ∧ 1 ≤ s.ckCnt.toNat ∧ s.ckB1.toNat = s.ckP1.toNat % 2 ^ 8) ∨
      (s.ckKind = .crc ∧ 2 ≤ s.ckCnt.toNat ∧ 2 ^ 8 * s.ckB1.toNat + s.ckB2.toNat = s.ckP2.toNat))

/-- The fields of a slot, the header bytes, and when it is well-formed and eligible (10 R27, R32 and R33, their
definitions). -/
def Obligations.SlotFieldsAndWellFormed : Prop :=
  ∀ (b : Nat) (x : Slot),
    (x.en = true ↔ x.scfg.toNat % 2 = 1) ∧ (x.kind = .crc ↔ x.scfg.toNat / 2 % 2 = 1) ∧
    x.rhlen = x.scfg.toNat / 2 ^ 2 % 2 ^ 3 ∧ x.nhlen = x.scfg.toNat / 2 ^ 5 % 2 ^ 3 ∧
    ((x.rh 0).toNat = x.rhdr01.toNat % 2 ^ 8 ∧ (x.rh 1).toNat = x.rhdr01.toNat / 2 ^ 8 ∧
      (x.rh 2).toNat = x.rhdr23.toNat % 2 ^ 8 ∧ (x.rh 3).toNat = x.rhdr23.toNat / 2 ^ 8) ∧
    ((x.nh 0).toNat = x.nhdr01.toNat % 2 ^ 8 ∧ (x.nh 1).toNat = x.nhdr01.toNat / 2 ^ 8 ∧
      (x.nh 2).toNat = x.nhdr23.toNat % 2 ^ 8 ∧ (x.nh 3).toNat = x.nhdr23.toNat / 2 ^ 8) ∧
    (x.wellFormed b = true ↔ 1 ≤ x.rhlen ∧ x.rhlen ≤ 4 ∧ x.nhlen ≤ 4 ∧
      x.rhlen + (match x.kind with | .sum => 1 | .crc => 2) ≤ x.explen.toNat ∧ x.explen.toNat ≤ b) ∧
    (x.eligible b = true ↔ x.en = true ∧ x.wellFormed b = true)

/-- CFGERR reads, for every slot, whether it is armed and ill-formed, and 0 above NSCHEMA; the read has no side effect
and leaves irq as it was; the register is read-only (10 R34). -/
def Obligations.CfgerrReportsArmedIllFormedSlots : Prop :=
  ∀ s : State, s.Legal →
    (∀ d : Word, exec (.wrreg 0x08 d) s = .next { s with err := true, response := some ⟨.readOnly, 0x0000⟩ }) ∧
    ∃ (w : Word) (t : State), exec (.rdreg 0x08) s = .next t ∧ t = { s with response := some ⟨.ok, w⟩ } ∧ t.irq = s.irq ∧
      ∀ j < 16, w.getLsbD j = (decide (j < s.nschema) && (s.slotAt j).en && !s.wellFormed j)

/-- RDREG: its words, and that it completes at every address: BAD_ADDR where it is unmapped, else the register with no
other change; the values of IE and of the slot registers (42 R151 and R152, 10 R23 and R24 together; that reserved bits
read 0 whatever the state holds there is notes/assumptions/10.md). -/
def Obligations.RdregOfEveryAddress : Prop :=
  WordsMean 0x30000000 0xF00FFFFF (fun w => .rdreg (w.extractLsb' 20 8)) ∧
  ∀ (s : State) (a : BitVec 8),
    (Unmapped s.nschema a.toNat → exec (.rdreg a) s = .next { s with err := true, response := some ⟨.badAddr, 0x0000⟩ }) ∧
    (¬ Unmapped s.nschema a.toNat → ∃ w : Word, exec (.rdreg a) s = .next { s with response := some ⟨.ok, w⟩ }) ∧
    (a = 0x03 → exec (.rdreg a) s = .next { s with response := some ⟨.ok, s.ie &&& 0x1F01⟩ }) ∧
    ∀ (j : Nat) (x : Slot), s.slots[j]? = some x →
      (a.toNat = 0x10 + 8 * j + 0 → exec (.rdreg a) s = .next { s with response := some ⟨.ok, x.scfg &&& 0x00FF⟩ }) ∧
      (a.toNat = 0x10 + 8 * j + 1 → exec (.rdreg a) s = .next { s with response := some ⟨.ok, x.explen⟩ }) ∧
      (a.toNat = 0x10 + 8 * j + 2 → exec (.rdreg a) s = .next { s with response := some ⟨.ok, x.rhdr01⟩ }) ∧
      (a.toNat = 0x10 + 8 * j + 3 → exec (.rdreg a) s = .next { s with response := some ⟨.ok, x.rhdr23⟩ }) ∧
      (a.toNat = 0x10 + 8 * j + 4 → exec (.rdreg a) s = .next { s with response := some ⟨.ok, x.nhdr01⟩ }) ∧
      (a.toNat = 0x10 + 8 * j + 5 → exec (.rdreg a) s = .next { s with response := some ⟨.ok, x.nhdr23⟩ })

/-- WRREG: its words, and at every address what it writes, and that it changes nothing else (42 R153). -/
def Obligations.WrregOfEveryAddress : Prop :=
  WordsMean 0x20000000 0xF00F0000 (fun w => .wrreg (w.extractLsb' 20 8) (w.extractLsb' 0 16)) ∧
  ∀ (s : State) (a : BitVec 8) (d : Word),
    (Unmapped s.nschema a.toNat →
      exec (.wrreg a d) s = .next { s with err := true, response := some ⟨.badAddr, 0x0000⟩ }) ∧
    (ReadOnlyAddr a.toNat → exec (.wrreg a d) s = .next { s with err := true, response := some ⟨.readOnly, 0x0000⟩ }) ∧
    (a = 0x02 → exec (.wrreg a d) s =
      .next { s with noise := s.noise && !d.getLsbD 8, mism := s.mism && !d.getLsbD 9, ovf := s.ovf && !d.getLsbD 10,
                     ovr := s.ovr && !d.getLsbD 11, err := s.err && !d.getLsbD 12, response := some ⟨.ok, 0x0000⟩ }) ∧
    (a = 0x03 → exec (.wrreg a d) s = .next { s with ie := d &&& 0x1F01, response := some ⟨.ok, 0x0000⟩ }) ∧
    ∀ (j : Nat), j < s.nschema →
      (a.toNat = 0x10 + 8 * j + 0 → exec (.wrreg a d) s =
        .next { s with slots := s.slots.modify j (fun x => { x with scfg := d &&& 0x00FF }),
                       response := some ⟨.ok, 0x0000⟩ }) ∧
      (a.toNat = 0x10 + 8 * j + 1 → exec (.wrreg a d) s =
        .next { s with slots := s.slots.modify j (fun x => { x with explen := d }), response := some ⟨.ok, 0x0000⟩ }) ∧
      (a.toNat = 0x10 + 8 * j + 2 → exec (.wrreg a d) s =
        .next { s with slots := s.slots.modify j (fun x => { x with rhdr01 := d }), response := some ⟨.ok, 0x0000⟩ }) ∧
      (a.toNat = 0x10 + 8 * j + 3 → exec (.wrreg a d) s =
        .next { s with slots := s.slots.modify j (fun x => { x with rhdr23 := d }), response := some ⟨.ok, 0x0000⟩ }) ∧
      (a.toNat = 0x10 + 8 * j + 4 → exec (.wrreg a d) s =
        .next { s with slots := s.slots.modify j (fun x => { x with nhdr01 := d }), response := some ⟨.ok, 0x0000⟩ }) ∧
      (a.toNat = 0x10 + 8 * j + 5 → exec (.wrreg a d) s =
        .next { s with slots := s.slots.modify j (fun x => { x with nhdr23 := d }), response := some ⟨.ok, 0x0000⟩ })

/-- A slot register reads back what was written, its reserved bits 0, and every other register but CFGERR reads as
before (42 R152 and R153, 10 R23 and R27 together). -/
def Obligations.SlotRegisterReadsBack : Prop :=
  ∀ (s : State) (j k : Nat) (d : Word), s.Legal → j < s.nschema → k < 6 →
    ∃ t : State, exec (.wrreg (slotAddr j k) d) s = .next t ∧
      exec (.rdreg (slotAddr j k)) t =
        .next { t with response := some ⟨.ok, if k = 0 then d &&& 0x00FF else d⟩ } ∧
      ∀ (a : BitVec 8) (w : Word), a ≠ slotAddr j k → a ≠ 0x08 →
        exec (.rdreg a) s = .next { s with response := some ⟨.ok, w⟩ } →
        exec (.rdreg a) t = .next { t with response := some ⟨.ok, w⟩ }

/-- WRREG to STATUS clears exactly the sticky bits whose data bit is 1, whatever the other data bits, never sets ERR, and
changes nothing else (10 R35, 42 R153 and R154 together). -/
def Obligations.StatusIsWriteOneToClear : Prop :=
  ∀ (s : State) (d : Word), ∃ t : State, exec (.wrreg 0x02 d) s = .next t ∧
    t.statusWord = s.statusWord &&& ~~~(d &&& 0x1F00) ∧
    t = { s with noise := t.noise, mism := t.mism, ovf := t.ovf, ovr := t.ovr, err := t.err,
                 response := some ⟨.ok, 0x0000⟩ }

/-- FRREAD: its words, NO_FRAME with no frame held, RANGE at or past the frame's end, else the byte, with no other change
(42 R155). The premise OUT_LEN ≤ BUFMAX is a clause of 10_state.md R46. -/
def Obligations.FrreadResult : Prop :=
  WordsMean 0x80000000 0xFFFF0000 (fun w => .frread (w.extractLsb' 0 16)) ∧
  ∀ (s : State) (i : Word),
    (s.outv = false → exec (.frread i) s = .next { s with err := true, response := some ⟨.noFrame, 0x0000⟩ }) ∧
    (s.outv = true → s.outLen.toNat ≤ i.toNat →
      exec (.frread i) s = .next { s with err := true, response := some ⟨.range, 0x0000⟩ }) ∧
    (s.outv = true → i.toNat < s.outLen.toNat → s.outLen.toNat ≤ s.bufmax →
      exec (.frread i) s = .next { s with response := some ⟨.ok, (s.obuf.read i.toNat).zeroExtend 16⟩ })

/-- READFRAME on a held frame returns its tag, its length and its bytes in order, then gives it back, and changes nothing
else: R197, which the spec marks as derived from R155 and R156. -/
def Obligations.ReadframeReturnsTheHeldFrame : Prop :=
  ∀ s : State, s.outv = true → s.outLen.toNat ≤ s.bufmax →
    responses (readFrame s.outLen.toNat) s =
      [some ⟨.ok, BitVec.ofNat 16 (s.outSchema.toNat + 2 ^ 8 + 2 ^ 9 * bit s.outCkok)⟩, some ⟨.ok, s.outLen⟩] ++
        (s.obuf.bytes s.outLen.toNat).map (fun b => some ⟨.ok, b.zeroExtend 16⟩) ++ [some ⟨.ok, 0x0000⟩] ∧
    execAll (readFrame s.outLen.toNat) s =
      .next { s with outv := false, outLen := 0, outSchema := 0, outCkok := false, response := some ⟨.ok, 0x0000⟩ }

/-- RELEASE: its word, NO_FRAME with no frame held, else the output is free and nothing else changes (42 R156). -/
def Obligations.ReleaseResult : Prop :=
  WordsMean 0x50000000 0xFFFFFFFF (fun _ => .release) ∧
  ∀ s : State,
    (s.outv = false → exec .release s = .next { s with err := true, response := some ⟨.noFrame, 0x0000⟩ }) ∧
    (s.outv = true → exec .release s =
      .next { s with outv := false, outLen := 0, outSchema := 0, outCkok := false, response := some ⟨.ok, 0x0000⟩ })

/-- CANCEL: its word, and that it completes in every state: the FSM returns to IDLE, RQ is cleared, and nothing else
changes (41 R133). -/
def Obligations.CancelResult : Prop :=
  WordsMean 0x40000000 0xFFFFFFFF (fun _ => .cancel) ∧
  ∀ s : State, exec .cancel s =
    .next { s with fsm := .idle, pos := 0, slot := 0, candr := 0, candn := 0, rq := false, response := some ⟨.ok, 0x0000⟩ }

/-- A successful RDREG or FRREAD changes no state, and any of them repeated at once answers the same again (20 R66, its
part about reads). -/
def Obligations.ReadsAreIdempotent : Prop :=
  ∀ (i : Instr) (s t : State), ((∃ a, i = .rdreg a) ∨ ∃ x, i = .frread x) → exec i s = .next t →
    exec i t = .next t ∧ ∀ d, t.response = some ⟨.ok, d⟩ → t = { s with response := some ⟨.ok, d⟩ }

/-! ### Errors and the interrupt (60_exceptions.md) -/

/-- The one code of every word: the first that applies of ILLEGAL, BAD_ADDR, READ_ONLY, NO_FRAME and RANGE, else OK (60
R172). The premises are clauses of 10_state.md R46. -/
def Obligations.ResponseCodeOfEveryWord : Prop :=
  ∀ (s : State) (w : OpWord), s.Legal → (s.outv = true → s.outLen.toNat ≤ s.bufmax) →
    ∃ t : State, performWord w s = .next t ∧ t.response.map Response.code = some (
      let op := w.toNat / 2 ^ 28
      let addr := w.toNat / 2 ^ 20 % 2 ^ 8
      if wordWf w = false then .illegal
      else if (op = 2 ∨ op = 3) ∧ Unmapped s.nschema addr then .badAddr
      else if op = 2 ∧ ReadOnlyAddr addr then .readOnly
      else if (op = 5 ∨ op = 8) ∧ s.outv = false then .noFrame
      else if op = 8 ∧ s.outLen.toNat ≤ w.toNat % 2 ^ 16 then .range
      else .ok)

/-- An operation whose response is not OK has changed nothing but STATUS.ERR, and its RDATA is 0 (60 R173). -/
def Obligations.ErrorsOnlySetErr : Prop :=
  ∀ (s t : State) (w : OpWord) (c : Code) (d : Word), performWord w s = .next t → t.response = some ⟨c, d⟩ → c ≠ .ok →
    t = { s with err := true, response := some ⟨c, 0x0000⟩ }

/-- Every operation returns one response; RDATA is the value read by a successful RDREG or FRREAD and 0 in every other
case; as a word it is CODE in bits [19:16] and RDATA below (30 R88). -/
def Obligations.RdataIsZeroUnlessARead : Prop :=
  ∀ (s t : State) (w : OpWord), performWord w s = .next t →
    ∃ (c : Code) (d : Word), t.response = some ⟨c, d⟩ ∧
      (c = .ok → w.toNat / 2 ^ 28 = 3 →
        ∃ r, regAt s.nschema (w.extractLsb' 20 8) = some r ∧ d = s.readReg r) ∧
      (c = .ok → w.toNat / 2 ^ 28 = 8 → d = (s.obuf.read (w.toNat % 2 ^ 16)).zeroExtend 16) ∧
      (¬ (c = .ok ∧ (w.toNat / 2 ^ 28 = 3 ∨ w.toNat / 2 ^ 28 = 8)) → d = 0x0000) ∧
      (Response.word ⟨c, d⟩).toNat =
        2 ^ 16 * (match c with
          | .ok => 0 | .illegal => 1 | .badAddr => 2 | .readOnly => 3 | .noFrame => 4 | .range => 5) + d.toNat

/-- irq is 1 exactly when a pending bit of STATUS is enabled in IE (60 R176); a write to IE changes no pending bit, and irq
follows the new enables at once (60 R177). -/
def Obligations.IrqIsEnabledStatus : Prop :=
  (∀ s : State, s.irq = true ↔
    (s.outv = true ∧ s.ie.getLsbD 0 = true) ∨ (s.noise = true ∧ s.ie.getLsbD 8 = true) ∨
    (s.mism = true ∧ s.ie.getLsbD 9 = true) ∨ (s.ovf = true ∧ s.ie.getLsbD 10 = true) ∨
    (s.ovr = true ∧ s.ie.getLsbD 11 = true) ∨ (s.err = true ∧ s.ie.getLsbD 12 = true)) ∧
  (∀ s : State, s.irq = true ↔ s.statusWord &&& s.ie &&& 0x1F01 ≠ 0) ∧
  (∀ (s : State) (d : Word), ∃ t : State, exec (.wrreg 0x03 d) s = .next t ∧ t.statusWord = s.statusWord ∧
    (t.irq = true ↔ s.statusWord &&& d &&& 0x1F01 ≠ 0))

/-- A sticky bit stays 1 through every operation but a WRREG to STATUS that names it and SRESET (10 R35, its last
paragraph). -/
def Obligations.StickyBitsStayUntilCleared : Prop :=
  ∀ (i : Instr) (s t : State), exec i s = .next t → i ≠ .sreset →
    (s.noise = true → (∀ d, i = .wrreg 0x02 d → d.getLsbD 8 = false) → t.noise = true) ∧
    (s.mism = true → (∀ d, i = .wrreg 0x02 d → d.getLsbD 9 = false) → t.mism = true) ∧
    (s.ovf = true → (∀ d, i = .wrreg 0x02 d → d.getLsbD 10 = false) → t.ovf = true) ∧
    (s.ovr = true → (∀ d, i = .wrreg 0x02 d → d.getLsbD 11 = false) → t.ovr = true) ∧
    (s.err = true → (∀ d, i = .wrreg 0x02 d → d.getLsbD 12 = false) → t.err = true)

/-! ### The checksum engine (40_checksum.md) -/

/-- CKINIT: its words, and that it completes in every state and sets the unit's registers only (40 R107). -/
def Obligations.CkinitResult : Prop :=
  WordsMean 0x60000000 0xFFFFFFFE (fun w => .ckinit (if w.getLsbD 0 then .crc else .sum)) ∧
  ∀ (k : Kind) (s : State), exec (.ckinit k) s =
    .next { s with ckKind := k, ckCnt := 0,
                   ckAcc := if k = .crc then 0xFFFF else 0x0000,
                   ckP1 := if k = .crc then 0xFFFF else 0x0000,
                   ckP2 := if k = .crc then 0xFFFF else 0x0000,
                   ckB1 := 0x00, ckB2 := 0x00, response := some ⟨.ok, 0x0000⟩ }

/-- CKFEED: its words, and that it completes in every state: the accumulator takes the byte, the lag registers shift, the
count saturates, and nothing else changes (40 R108). -/
def Obligations.CkfeedResult : Prop :=
  WordsMean 0x70000000 0xFFFFFF00 (fun w => .ckfeed (w.extractLsb' 0 8)) ∧
  ∀ (b : Byte) (s : State), ∃ t : State, exec (.ckfeed b) s = .next t ∧
    t = { s with ckAcc := t.ckAcc, ckCnt := t.ckCnt, ckP2 := s.ckP1, ckP1 := s.ckAcc, ckB2 := s.ckB1, ckB1 := b,
                 response := some ⟨.ok, 0x0000⟩ } ∧
    (s.ckKind = .crc → t.ckAcc = crcStep s.ckAcc b) ∧
    (s.ckKind = .sum → t.ckAcc.toNat = (s.ckAcc.toNat % 2 ^ 8 + b.toNat) % 2 ^ 8) ∧
    t.ckCnt.toNat = min (s.ckCnt.toNat + 1) 0xFFFF

/-- sum8 is the sum of all the bytes mod 256, and byte-serially the fold of sum_step from 0 (40 R101). -/
def Obligations.SumIsSumModulo256 : Prop :=
  (∀ bs : List Byte, (sum8 bs).toNat = (bs.map BitVec.toNat).sum % 256) ∧ sum8 [] = 0x00 ∧
  (∀ a b : Byte, (sumStep a b).toNat = (a.toNat + b.toNat) % 256) ∧
  (∀ (bs : List Byte) (b : Byte), sum8 (bs ++ [b]) = sumStep (sum8 bs) b)

/-- The reflected byte step with 0xA001 is the polynomial division by x^16 + x^15 + x^2 + 1, bit-reversed, and crc16 is
that division of the whole sequence, each byte least significant bit first, from 0xFFFF with no final xor. R102 and R103
give the constants and mark them as general knowledge, not in the source. -/
def Obligations.CrcIsPolynomialDivision : Prop :=
  (∀ (c : Word) (b : Byte),
    (crcStep c b).reverse = ((List.range 8).map b.getLsbD).foldl lfsrStep c.reverse) ∧
  (∀ bs : List Byte,
    (crc16 bs).reverse = (bs.flatMap fun b => (List.range 8).map b.getLsbD).foldl lfsrStep 0xFFFF)

/-- Every sequence followed by its checksum is valid, and its CRC residue is 0: R106, which the spec marks as derived from
R101 to R105. -/
def Obligations.AppendedChecksumIsValid : Prop :=
  (∀ (k : Kind) (x : List Byte), validate k (x ++ compute k x) = true) ∧
  (∀ x : List Byte, crc16 (x ++ compute .crc x) = 0x0000)

/-- CKINIT and then CKFEED of the bytes of a sequence compute its checksum and validate it, from every state, and change
nothing else; CKRES then holds the checksum bytes: R110 and R111, which the spec marks as derived from R101 to R109. -/
def Obligations.ChecksumUnitComputesAndValidates : Prop :=
  ∀ (k : Kind) (bs : List Byte) (s : State), ∃ t : State, execAll (ckRun k bs) s = .next t ∧
    t = { s with ckKind := k, ckCnt := t.ckCnt, ckAcc := t.ckAcc, ckP1 := t.ckP1, ckP2 := t.ckP2, ckB1 := t.ckB1,
                 ckB2 := t.ckB2, response := some ⟨.ok, 0x0000⟩ } ∧
    t.ckAcc = (match k with | .sum => (sum8 bs).zeroExtend 16 | .crc => crc16 bs) ∧
    t.ckCnt.toNat = min bs.length 0xFFFF ∧ t.ckOk = validate k bs ∧
    exec (.rdreg 0x0A) t = .next { t with response := some ⟨.ok, t.ckAcc⟩ } ∧
    compute k bs =
      (match k with
        | .sum => [t.ckAcc.extractLsb' 0 8]
        | .crc => [t.ckAcc.extractLsb' 0 8, t.ckAcc.extractLsb' 8 8])

/-- The corner cases of the checksum functions: R112, which the spec marks as derived from R101 to R105. -/
def Obligations.ChecksumCornerCases : Prop :=
  validate .sum [] = false ∧ (∀ x : Byte, validate .crc [x] = false) ∧ validate .sum [0x00] = true ∧
  validate .crc [0xFF, 0xFF] = true ∧
  (∀ (f : List Byte) (i k : Nat), i < f.length → k < 8 → validate .sum f = true →
    validate .sum (f.set i (f.getD i 0 ^^^ (1#8 <<< k))) = false) ∧
  (∃ (f : List Byte) (i j : Nat) (x y : Byte), i < j ∧ j < f.length ∧ x ≠ f.getD i 0 ∧ y ≠ f.getD j 0 ∧
    validate .sum f = true ∧ validate .sum ((f.set i x).set j y) = true)

/-! ### The reassembler (41_reassembler.md) -/

/-- PUSH: its words, and that it completes in every state of a legal instance, with the response (OK, 0): it sets sticky
bits and never clears one, leaves a held frame alone, and changes nothing outside the reassembler, its status bits and a
free output frame (41 R122, R127 and R128, 60 R178, their parts about what PUSH changes). -/
def Obligations.PushCompletes : Prop :=
  WordsMean 0x10000000 0xFFFFFE00 (fun w => .push (w.getLsbD 8) (w.extractLsb' 0 8)) ∧
  ∀ (s : State) (sof : Bool) (b : Byte), s.Legal →
    ∃ t : State, exec (.push sof b) s = .next t ∧
      t = { s with noise := t.noise, mism := t.mism, ovf := t.ovf, ovr := t.ovr, outv := t.outv, outLen := t.outLen,
                   outSchema := t.outSchema, outCkok := t.outCkok, obuf := t.obuf, fsm := t.fsm, pos := t.pos,
                   slot := t.slot, rq := t.rq, candr := t.candr, candn := t.candn, rbuf := t.rbuf,
                   response := some ⟨.ok, 0x0000⟩ } ∧
      (s.noise = true → t.noise = true) ∧ (s.mism = true → t.mism = true) ∧ (s.ovf = true → t.ovf = true) ∧
      (s.ovr = true → t.ovr = true) ∧
      (s.outv = true → t.outv = true ∧ t.outLen = s.outLen ∧ t.outSchema = s.outSchema ∧ t.outCkok = s.outCkok ∧
        t.obuf = s.obuf)

/-- In IDLE, a byte that opens no chunk is dropped; one that does (its own SOF, or RQ) is compared as byte 0 with every
eligible slot as a candidate (41 R123, with the IDLE line of R122). -/
def Obligations.StartSeedsTheCandidates : Prop :=
  ∀ (s : State) (sof : Bool) (b : Byte), s.Legal → s.fsm = .idle →
    (sof = false → s.rq = false → exec (.push sof b) s = .next { s with response := some ⟨.ok, 0x0000⟩ }) ∧
    (sof = true ∨ s.rq = true → ∀ m n : BitVec 8,
      (∀ j, m.getLsbD j = true ↔ s.eligible j = true) →
      (∀ j, n.getLsbD j = true ↔ s.eligible j = true ∧ 1 ≤ (s.slotAt j).nhlen) →
      exec (.push sof b) s =
        exec (.push true b) { s with fsm := .hdr, pos := 0, candr := m, candn := n, rq := false })

/-- HDRBYTE: a completed noise header, else the lowest completed response header, else a mismatch, else the match goes on
(41 R124). The store is one byte at RBUF index POS. -/
def Obligations.HeaderByteRule : Prop :=
  ∀ (s : State) (sof : Bool) (b : Byte), s.Legal → s.fsm = .hdr → s.rbuf.wf →
    ((∃ j, s.NoiseStillMatches b j ∧ (s.slotAt j).nhlen = s.pos.toNat + 1) →
      exec (.push sof b) s =
        .next { s with noise := true, fsm := .idle, pos := 0, slot := 0, candr := 0, candn := 0, rq := false,
                       response := some ⟨.ok, 0x0000⟩ }) ∧
    ((¬ ∃ j, s.NoiseStillMatches b j ∧ (s.slotAt j).nhlen = s.pos.toNat + 1) →
      ∀ j, s.ResponseStillMatches b j → (s.slotAt j).rhlen = s.pos.toNat + 1 →
        (∀ i < j, s.ResponseStillMatches b i → (s.slotAt i).rhlen ≠ s.pos.toNat + 1) →
        ∃ t : State, exec (.push sof b) s = .next t ∧
          t = { s with rbuf := t.rbuf, pos := s.pos + 1, slot := BitVec.ofNat 3 j, candr := 0, candn := 0, fsm := .accum,
                       rq := false, response := some ⟨.ok, 0x0000⟩ } ∧
          ∀ i, t.rbuf.read i = if i = s.pos.toNat then b else s.rbuf.read i) ∧
    ((∀ j, ¬ s.NoiseStillMatches b j ∧ ¬ s.ResponseStillMatches b j) →
      ((sof = false ∧ s.rq = false) ∨ s.pos = 0) →
      exec (.push sof b) s =
        .next { s with mism := true, fsm := .idle, pos := 0, slot := 0, candr := 0, candn := 0, rq := false,
                       response := some ⟨.ok, 0x0000⟩ }) ∧
    ((∀ j, ¬ s.NoiseStillMatches b j ∧ ¬ s.ResponseStillMatches b j) →
      (sof = true ∨ s.rq = true) → s.pos ≠ 0 →
      exec (.push sof b) s =
        exec (.push true b)
          { s with mism := true, fsm := .idle, pos := 0, slot := 0, candr := 0, candn := 0, rq := false }) ∧
    ((¬ ∃ j, s.NoiseStillMatches b j ∧ (s.slotAt j).nhlen = s.pos.toNat + 1) →
      (¬ ∃ j, s.ResponseStillMatches b j ∧ (s.slotAt j).rhlen = s.pos.toNat + 1) →
      (∃ j, s.NoiseStillMatches b j ∨ s.ResponseStillMatches b j) →
      ∃ t : State, exec (.push sof b) s = .next t ∧
        t = { s with rbuf := t.rbuf, pos := s.pos + 1, candn := t.candn, candr := t.candr, rq := false,
                     response := some ⟨.ok, 0x0000⟩ } ∧
        (∀ j, t.candn.getLsbD j = true ↔ s.NoiseStillMatches b j) ∧
        (∀ j, t.candr.getLsbD j = true ↔ s.ResponseStillMatches b j) ∧
        ∀ i, t.rbuf.read i = if i = s.pos.toNat then b else s.rbuf.read i)

/-- ACCBYTE and EMIT: the overflow drop, the append, and the completion with the output free or held (41 R126, R127). The
stores are one byte at RBUF index POS and, with the output free, the frame at OBUF indexes 0 to EXPLEN−1. -/
def Obligations.AccumulateByteRule : Prop :=
  ∀ (s : State) (sof : Bool) (b : Byte) (x : Slot), s.Legal → s.fsm = .accum → s.rbuf.wf → s.obuf.wf →
    x = s.slotAt s.slot.toNat →
    (x.wellFormed s.bufmax = false ∨ x.explen.toNat ≤ s.pos.toNat →
      (sof = false → s.rq = false → exec (.push sof b) s =
        .next { s with ovf := true, fsm := .idle, pos := 0, slot := 0, candr := 0, candn := 0,
                       response := some ⟨.ok, 0x0000⟩ }) ∧
      (sof = true ∨ s.rq = true → exec (.push sof b) s =
        exec (.push true b)
          { s with ovf := true, fsm := .idle, pos := 0, slot := 0, candr := 0, candn := 0, rq := false })) ∧
    (x.wellFormed s.bufmax = true → s.pos.toNat < x.explen.toNat →
      ∃ t : State, exec (.push sof b) s = .next t ∧
        (∀ i, t.rbuf.read i = if i = s.pos.toNat then b else s.rbuf.read i) ∧
        (s.pos.toNat + 1 < x.explen.toNat →
          t = { s with rbuf := t.rbuf, pos := s.pos + 1, rq := false, response := some ⟨.ok, 0x0000⟩ }) ∧
        (s.pos.toNat + 1 = x.explen.toNat → s.outv = false →
          t = { s with rbuf := t.rbuf, obuf := t.obuf, outv := true, outLen := x.explen, outSchema := s.slot,
                       outCkok := validate x.kind (s.rbuf.bytes s.pos.toNat ++ [b]),
                       fsm := .idle, pos := 0, slot := 0, candr := 0, candn := 0, rq := true,
                       response := some ⟨.ok, 0x0000⟩ } ∧
          ∀ i, t.obuf.read i = if i < x.explen.toNat then t.rbuf.read i else s.obuf.read i) ∧
        (s.pos.toNat + 1 = x.explen.toNat → s.outv = true →
          t = { s with rbuf := t.rbuf, ovr := true, fsm := .idle, pos := 0, slot := 0, candr := 0, candn := 0, rq := true,
                       response := some ⟨.ok, 0x0000⟩ }))

/-- The re-queue flag: a completed frame sets it, the next PUSH is then a chunk start whatever its SOF and clears it, CANCEL
and SRESET clear it, and no other operation changes it (41 R129). -/
def Obligations.RequeueRule : Prop :=
  (∀ (s : State) (sof : Bool) (b : Byte), s.Legal → s.fsm = .accum → s.wellFormed s.slot.toNat = true →
    s.pos.toNat + 1 = (s.slotAt s.slot.toNat).explen.toNat →
    ∃ t : State, exec (.push sof b) s = .next t ∧ t.rq = true ∧ t.fsm = .idle) ∧
  (∀ (s : State) (sof : Bool) (b : Byte), s.fsm = .idle → s.rq = true →
    exec (.push sof b) s = exec (.push true b) { s with rq := false }) ∧
  (∀ (i : Instr) (s t : State), exec i s = .next t →
    match i with
    | .push _ _ => t.rq = true → s.fsm = .accum
    | .cancel | .sreset => t.rq = false
    | .nop | .wrreg _ _ | .rdreg _ | .release | .ckinit _ | .ckfeed _ | .frread _ => t.rq = s.rq)

/-- After a CANCEL every byte up to the next chunk start is dropped: R196, which the spec marks as derived. -/
def Obligations.CancelDropsTheRestOfTheChunk : Prop :=
  ∀ (s : State) (bs : List Byte), execAll (.cancel :: bs.map (.push false)) s =
    .next { s with fsm := .idle, pos := 0, slot := 0, candr := 0, candn := 0, rq := false,
                   response := some ⟨.ok, 0x0000⟩ }

/-- What a frame delivered from IDLE leaves, however it is cut into non-empty chunks: R134, which the spec marks as derived
from R120 and R122 to R128. -/
def Obligations.FrameCompletesInAnyChunking : Prop :=
  ∀ (s : State) (j : Nat) (f : List Byte) (cs : List (List Byte)),
    s.Legal → s.fsm = .idle → s.rq = false → s.rbuf.wf → s.obuf.wf → s.eligible j = true →
    f.length = (s.slotAt j).explen.toNat → f.take (s.slotAt j).rhlen = (s.slotAt j).rhBytes →
    (∀ i, s.eligible i = true → 1 ≤ (s.slotAt i).nhlen → f.take (s.slotAt i).nhlen ≠ (s.slotAt i).nhBytes) →
    (∀ i, s.eligible i = true → i ≠ j → f.take (s.slotAt i).rhlen = (s.slotAt i).rhBytes →
      ¬ ((s.slotAt i).rhlen < (s.slotAt j).rhlen ∨ ((s.slotAt i).rhlen = (s.slotAt j).rhlen ∧ i < j))) →
    cs.flatten = f → [] ∉ cs →
    ∃ t : State, execAll (chunks cs) s = .next t ∧
      t = { s with rbuf := t.rbuf, obuf := t.obuf, outv := true, outLen := t.outLen, outSchema := t.outSchema,
                   outCkok := t.outCkok, ovr := t.ovr, fsm := .idle, pos := 0, slot := 0, candr := 0, candn := 0,
                   rq := true, response := some ⟨.ok, 0x0000⟩ } ∧
      (s.outv = false → t.obuf.bytes f.length = f ∧ t.outLen.toNat = f.length ∧ t.outSchema.toNat = j ∧
        t.outCkok = validate (s.slotAt j).kind f ∧ t.ovr = s.ovr) ∧
      (s.outv = true → t.ovr = true ∧ t.obuf = s.obuf ∧ t.outLen = s.outLen ∧ t.outSchema = s.outSchema ∧
        t.outCkok = s.outCkok)

/-- Two ways of cutting the same frame into non-empty chunks end in the same state, the whole of it: R134, which the spec
marks as derived from R120 and R122 to R128. -/
def Obligations.ChunkBoundariesDoNotMatter : Prop :=
  ∀ (s : State) (j : Nat) (f : List Byte) (cs cs' : List (List Byte)),
    s.Legal → s.fsm = .idle → s.rq = false → s.eligible j = true →
    f.length = (s.slotAt j).explen.toNat → f.take (s.slotAt j).rhlen = (s.slotAt j).rhBytes →
    (∀ i, s.eligible i = true → 1 ≤ (s.slotAt i).nhlen → f.take (s.slotAt i).nhlen ≠ (s.slotAt i).nhBytes) →
    (∀ i, s.eligible i = true → i ≠ j → f.take (s.slotAt i).rhlen = (s.slotAt i).rhBytes →
      ¬ ((s.slotAt i).rhlen < (s.slotAt j).rhlen ∨ ((s.slotAt i).rhlen = (s.slotAt j).rhlen ∧ i < j))) →
    cs.flatten = f → [] ∉ cs → cs'.flatten = f → [] ∉ cs' →
    ∃ t : State, execAll (chunks cs) s = .next t ∧ execAll (chunks cs') s = .next t

/-- A chunk that begins with an eligible slot's noise header, delivered from IDLE with RQ = 0, sets NOISE, emits nothing and
leaves the FSM in IDLE, provided no eligible slot's response header completes before the noise header does. Without that
proviso the sentence of R131 and R135 fails, by R125 (2) and vector V-RA-9: notes/assumptions/9.md. -/
def Obligations.NoiseChunkIsDropped : Prop :=
  ∀ (s : State) (j : Nat) (c : List Byte),
    s.Legal → s.fsm = .idle → s.rq = false → s.eligible j = true → 1 ≤ (s.slotAt j).nhlen →
    c.take (s.slotAt j).nhlen = (s.slotAt j).nhBytes →
    (∀ i, s.eligible i = true → c.take (s.slotAt i).rhlen = (s.slotAt i).rhBytes →
      (s.slotAt j).nhlen ≤ (s.slotAt i).rhlen) →
    ∃ t : State, execAll (chunk c) s = .next t ∧
      t = { s with noise := true, rbuf := t.rbuf, pos := 0, slot := 0, candr := 0, candn := 0,
                   response := some ⟨.ok, 0x0000⟩ }

/-- The ARM sequence with legal values makes its slot eligible with those values and changes nothing else (30 R90 and 70
R192, their part about arming a slot). -/
def Obligations.ArmMakesTheSlotEligible : Prop :=
  ∀ (s : State) (j : Nat) (kind : Kind) (rh01 rh23 nh01 nh23 explen : Word) (rhlen nhlen : BitVec 3),
    s.Legal → j < s.nschema → 1 ≤ rhlen.toNat → rhlen.toNat ≤ 4 → nhlen.toNat ≤ 4 →
    rhlen.toNat + ckLen kind ≤ explen.toNat → explen.toNat ≤ s.bufmax →
    ∃ (t : State) (x : Slot), execAll (arm j kind rh01 rh23 rhlen nh01 nh23 nhlen explen) s = .next t ∧
      t = { s with slots := s.slots.set j x, response := some ⟨.ok, 0x0000⟩ } ∧ t.slotAt j = x ∧ t.eligible j = true ∧
      x.kind = kind ∧ x.rhlen = rhlen.toNat ∧ x.nhlen = nhlen.toNat ∧ x.explen = explen ∧ x.rhdr01 = rh01 ∧
      x.rhdr23 = rh23 ∧ x.nhdr01 = nh01 ∧ x.nhdr23 = nh23

/-! ### The whole block -/

/-- Every step keeps the invariants of R46, which the spec marks as derived. -/
def Obligations.StepKeepsTheSpecInvariants : Prop :=
  ∀ s t : State, s.SpecInv → step s = .next t → t.SpecInv

/-- The reset state of every instance the spec allows meets the invariants of R46 and the model's own. -/
def Obligations.ResetMeetsTheInvariants : Prop :=
  (∀ n b : Nat, Config.Legal n b →
    (State.resetOf n b).SpecInv ∧ (State.resetOf n b).BuffersInv ∧ (State.resetOf n b).ReservedInv) ∧
  State.reset.SpecInv ∧ State.reset.BuffersInv ∧ State.reset.ReservedInv

/-- Every step keeps the buffers in their canonical form with bytes that exist only (the model's own form,
notes/assumptions/4.md; 20 R60 gives the indexes), and the reserved bits of IE and SCFG and the candidate bits above
NSCHEMA at 0 (10 R23, R27, R38, R43, their part about those bits). -/
def Obligations.StepKeepsBuffersAndReservedBits : Prop :=
  ∀ s t : State, s.BuffersInv → s.ReservedInv → step s = .next t → t.BuffersInv ∧ t.ReservedInv

/-- From every state that meets the invariants of R46 a step answers a next state: the block's step is total (00 R15) and
no state of a run reaches one of the model's own faults (notes/assumptions/5.md). -/
def Obligations.InvariantStatesNeverStop : Prop := ∀ s : State, s.SpecInv → ∃ t : State, step s = .next t

/-- No operation observes a buffer byte that the spec leaves unspecified: two states that differ in such bytes only take
every step alike, with the same responses, and again differ in such bytes only. R41, which the spec marks as derived; so
the model's choice of those bytes (notes/assumptions/4.md) shows nowhere. -/
def Obligations.UnspecifiedBytesAreUnobservable : Prop :=
  ∀ s t : State, s.SameButUnobservable t → outcomeRel State.SameButUnobservable (step s) (step t)

/-- However the port interleaves a stream of PUSH operations with host operations that only look at the block or use its
checksum unit, the reassembler, its status bits and the output frame end as if the stream had come alone (20 R63, R66 and
41 R129 together). The premise on OUT_LEN is a clause of 10_state.md R46. -/
def Obligations.ObserversDoNotDisturbTheStream : Prop :=
  ∀ (ps hs zs : List Instr) (s : State), (∀ i ∈ ps, isPush i = true) → (∀ i ∈ hs, isObserver i = true) →
    Interleaving ps hs zs → s.Legal → (s.outv = true → s.outLen.toNat ≤ s.bufmax) →
    ∃ t u : State, execAll zs s = .next t ∧ execAll ps s = .next u ∧ t.stream = u.stream

/-- Which operations can change which part of the state: the checksum unit (40 R111), the slots and IE (10 R26, R38), the
FSM, RQ and RBUF (10 R39, R40), the output frame (10 R36), a held frame (42 R155). -/
def Obligations.EachPartHasItsWriters : Prop :=
  ∀ (i : Instr) (s t : State), exec i s = .next t → i ≠ .sreset →
    ((∀ k, i ≠ .ckinit k) → (∀ b, i ≠ .ckfeed b) →
      t.ckKind = s.ckKind ∧ t.ckCnt = s.ckCnt ∧ t.ckAcc = s.ckAcc ∧ t.ckP1 = s.ckP1 ∧ t.ckP2 = s.ckP2 ∧
      t.ckB1 = s.ckB1 ∧ t.ckB2 = s.ckB2) ∧
    ((∀ a d, i ≠ .wrreg a d) → t.slots = s.slots ∧ t.ie = s.ie) ∧
    (isPush i = false → i ≠ .cancel →
      t.fsm = s.fsm ∧ t.pos = s.pos ∧ t.slot = s.slot ∧ t.rq = s.rq ∧ t.candr = s.candr ∧ t.candn = s.candn ∧
      t.rbuf = s.rbuf) ∧
    (isPush i = false ∨ s.outv = true → i ≠ .release →
      t.outv = s.outv ∧ t.outLen = s.outLen ∧ t.outSchema = s.outSchema ∧ t.outCkok = s.outCkok ∧ t.obuf = s.obuf) ∧
    t.bufmax = s.bufmax ∧ t.port = s.port

/-- IE has no effect but on irq: every operation other than RDREG of IE answers the same, and leaves the same state apart
from IE, whatever IE holds (10 R38, its last sentence). -/
def Obligations.IeOnlyAffectsIrq : Prop :=
  ∀ (i : Instr) (s : State) (v : Word), i ≠ .rdreg 0x03 →
    outcomeRel (fun t u => u = { t with ie := u.ie }) (exec i s) (exec i { s with ie := v })
end

