-- ==== Sys2Proof/Laws/Checksum.lean ====
section
/-! SUPPORT. The laws of the checksum functions: one byte more, the length of a checksum, and what a valid frame is. -/

namespace Sys2Proof.Machine

@[simp] theorem sum8_nil : sum8 [] = 0x00 := rfl

@[simp] theorem crc16_nil : crc16 [] = 0xFFFF := rfl

theorem crc16_append (xs ys : List Byte) : crc16 (xs ++ ys) = ys.foldl crcStep (crc16 xs) := by simp [crc16]

theorem crcShifts_succ (n : Nat) (c : Word) : crcShifts (n + 1) c = crcShifts n (crcShift c) := rfl

theorem crcShifts_add (m n : Nat) (c : Word) : crcShifts (m + n) c = crcShifts n (crcShifts m c) := by
  induction m generalizing c with
  | zero => simp [crcShifts]
  | succ m ih => rw [Nat.add_right_comm, crcShifts_succ, ih, crcShifts_succ]

@[simp] theorem compute_length (k : Kind) (bs : List Byte) : (compute k bs).length = ckLen k := by cases k <;> rfl

/-- A valid frame is a sequence followed by its checksum, one way round: `validate` splits the frame at its length less
CKLEN. -/
theorem validate_eq_true_iff {k : Kind} {f : List Byte} :
    validate k f = true ↔
      ckLen k ≤ f.length ∧ compute k (f.take (f.length - ckLen k)) = f.drop (f.length - ckLen k) := by
  simp [validate]

end Sys2Proof.Machine
end

