-- ==== Sys2Proof/Laws/Decode.lean ====
section
/-! SUPPORT. What the decoder answers, by the OP field: one lemma per row of the opcode table, and one for the reserved
values. -/

namespace Sys2Proof

/-- Everything `strict` can answer. -/
theorem strict_eq_ok_iff {n : Nat} {w : OpWord} {r : BitVec n} {i j : Instr} :
    strict w r i = .ok j ↔ r = 0#n ∧ i = j := by
  unfold strict; split <;> simp_all

theorem strict_of_zero {n : Nat} {w : OpWord} {r : BitVec n} (h : r = 0#n) (i : Instr) : strict w r i = .ok i := by
  simp [strict, h]

theorem strict_of_ne_zero {n : Nat} {w : OpWord} {r : BitVec n} (h : r ≠ 0#n) (i : Instr) :
    strict w r i = .error (.reservedBits (opField w)) := by
  simp [strict, h]

theorem decode_of_op_nop {w : OpWord} (h : (opField w).toNat = 0) : decode w = strict w (w.extractLsb' 0 28) .nop := by
  simp [decode, h]

theorem decode_of_op_push {w : OpWord} (h : (opField w).toNat = 1) :
    decode w = strict w (w.extractLsb' 9 19) (.push (sofField w) (byteField w)) := by
  simp [decode, h]

theorem decode_of_op_wrreg {w : OpWord} (h : (opField w).toNat = 2) :
    decode w = strict w (w.extractLsb' 16 4) (.wrreg (addrField w) (dataField w)) := by
  simp [decode, h]

theorem decode_of_op_rdreg {w : OpWord} (h : (opField w).toNat = 3) :
    decode w = strict w (w.extractLsb' 0 20) (.rdreg (addrField w)) := by
  simp [decode, h]

theorem decode_of_op_cancel {w : OpWord} (h : (opField w).toNat = 4) :
    decode w = strict w (w.extractLsb' 0 28) .cancel := by
  simp [decode, h]

theorem decode_of_op_release {w : OpWord} (h : (opField w).toNat = 5) :
    decode w = strict w (w.extractLsb' 0 28) .release := by
  simp [decode, h]

theorem decode_of_op_ckinit {w : OpWord} (h : (opField w).toNat = 6) :
    decode w = strict w (w.extractLsb' 1 27) (.ckinit (kindField w)) := by
  simp [decode, h]

theorem decode_of_op_ckfeed {w : OpWord} (h : (opField w).toNat = 7) :
    decode w = strict w (w.extractLsb' 8 20) (.ckfeed (byteField w)) := by
  simp [decode, h]

theorem decode_of_op_frread {w : OpWord} (h : (opField w).toNat = 8) :
    decode w = strict w (w.extractLsb' 16 12) (.frread (idxField w)) := by
  simp [decode, h]

theorem decode_of_op_sreset {w : OpWord} (h : (opField w).toNat = 9) :
    decode w = strict w (w.extractLsb' 0 28) .sreset := by
  simp [decode, h]

theorem decode_of_op_reserved {w : OpWord} (h : 10 ≤ (opField w).toNat) : decode w = .error (.reservedOp (opField w)) := by
  unfold decode
  split <;> first | omega | rfl

/-- Two words with the same OP and the same bits below it are equal. -/
theorem opWord_ext {v w : OpWord} (hop : opField v = opField w) (hlow : ∀ k < 28, v.getLsbD k = w.getLsbD k) : v = w := by
  refine BitVec.eq_of_getLsbD_eq fun k hk => ?_
  by_cases h : k < 28
  · exact hlow k h
  · have := congrArg (fun b => b.getLsbD (k - 28)) hop
    simp only [opField, BitVec.getLsbD_extractLsb'] at this
    have h4 : k - 28 < 4 := by omega
    simpa [h4, show 28 + (k - 28) = k by omega] using this

end Sys2Proof
end

