-- ==== Sys2Proof/Laws/Memory.lean ====
section
/-! SUPPORT. The laws of the byte buffers: what a read after a write gives, and that every operation keeps the canonical
form `Memory.wf`. -/

namespace Sys2Proof.Machine

theorem Memory.wf_nil : Memory.wf [] := by simp [Memory.wf]

theorem Memory.wf_cons {a : Nat} {c : Byte} {m : Memory} :
    Memory.wf ((a, c) :: m) ↔ (∀ x ∈ m, a < x.1) ∧ c ≠ Memory.unlisted ∧ Memory.wf m := by
  simp only [Memory.wf, List.pairwise_cons, List.mem_cons, forall_eq_or_imp]
  tauto

/-- An index that is not listed reads as unlisted. -/
theorem Memory.read_of_not_mem {m : Memory} {i : Nat} (h : ∀ x ∈ m, x.1 ≠ i) : m.read i = Memory.unlisted := by
  induction m with
  | nil => rfl
  | cons x m ih =>
    have hx : i ≠ x.1 := fun e => h x (by simp) e.symm
    simp only [Memory.read, hx, if_false]
    exact ih fun y hy => h y (by simp [hy])

theorem Memory.read_of_lt {m : Memory} {i : Nat} (h : ∀ x ∈ m, i < x.1) : m.read i = Memory.unlisted :=
  Memory.read_of_not_mem fun x hx => by have := h x hx; omega

/-- The indexes a write lists are those listed before and the index written. -/
theorem Memory.mem_write {m : Memory} {i : Nat} {b : Byte} {x : Host.Cell} (h : x ∈ m.write i b) :
    x ∈ m ∨ x = (i, b) := by
  induction m with
  | nil =>
    simp only [Memory.write] at h
    split at h <;> simp_all
  | cons y m ih =>
    simp only [Memory.write] at h
    split at h
    · split at h <;> simp_all; tauto
    · split at h
      · split at h <;> simp_all; tauto
      · simp only [List.mem_cons] at h ⊢
        tauto

/-- A write keeps the canonical form. -/
theorem Memory.write_wf {m : Memory} (hm : m.wf) (i : Nat) (b : Byte) : (m.write i b).wf := by
  induction m with
  | nil =>
    simp only [Memory.write]
    split
    · exact Memory.wf_nil
    · exact Memory.wf_cons.2 ⟨by simp, ‹_›, Memory.wf_nil⟩
  | cons y m ih =>
    obtain ⟨a, c⟩ := y
    obtain ⟨hlt, hc, hw⟩ := Memory.wf_cons.1 hm
    simp only [Memory.write]
    split
    · split
      · exact hm
      · refine Memory.wf_cons.2 ⟨?_, ‹_›, hm⟩
        intro x hx
        rcases List.mem_cons.1 hx with rfl | hx
        · assumption
        · have := hlt x hx; omega
    · split
      · split
        · exact hw
        · subst i; exact Memory.wf_cons.2 ⟨hlt, ‹_›, hw⟩
      · refine Memory.wf_cons.2 ⟨fun x hx => ?_, hc, ih hw⟩
        rcases Memory.mem_write hx with hx | rfl
        · exact hlt x hx
        · omega

/-- Reading the index just written gives the byte written. -/
theorem Memory.read_write_same {m : Memory} (hm : m.wf) (i : Nat) (b : Byte) : (m.write i b).read i = b := by
  induction m with
  | nil => simp only [Memory.write]; split <;> simp_all [Memory.read]
  | cons y m ih =>
    obtain ⟨a, c⟩ := y
    obtain ⟨hlt, hc, hw⟩ := Memory.wf_cons.1 hm
    simp only [Memory.write]
    split
    · split
      · subst b
        refine Memory.read_of_lt fun x hx => ?_
        rcases List.mem_cons.1 hx with rfl | hx
        · assumption
        · have := hlt x hx; omega
      · simp [Memory.read]
    · split
      · subst i
        split
        · subst b; exact Memory.read_of_lt hlt
        · simp [Memory.read]
      · simp [Memory.read, ih hw, *]

/-- A write leaves every other index as it was. -/
theorem Memory.read_write_other {m : Memory} (hm : m.wf) {i j : Nat} (h : j ≠ i) (b : Byte) :
    (m.write i b).read j = m.read j := by
  induction m with
  | nil => simp only [Memory.write]; split <;> simp_all [Memory.read]
  | cons y m ih =>
    obtain ⟨a, c⟩ := y
    obtain ⟨hlt, hc, hw⟩ := Memory.wf_cons.1 hm
    simp only [Memory.write]
    split
    · split <;> simp [Memory.read, h]
    · split
      · subst i; split <;> simp [Memory.read, h]
      · simp only [Memory.read, ih hw]

/-- Every index after a write. -/
theorem Memory.read_write {m : Memory} (hm : m.wf) (i j : Nat) (b : Byte) :
    (m.write i b).read j = if j = i then b else m.read j := by
  split
  · subst j; exact Memory.read_write_same hm i b
  · exact Memory.read_write_other hm ‹_› b

theorem Memory.copy_zero (src dst : Memory) : src.copy dst 0 = dst := rfl

theorem Memory.copy_succ (src dst : Memory) (n : Nat) :
    src.copy dst (n + 1) = (src.copy dst n).write n (src.read n) := by
  simp [Memory.copy, List.range_succ]

/-- A copy keeps the canonical form of its destination. -/
theorem Memory.copy_wf (src : Memory) {dst : Memory} (h : dst.wf) (n : Nat) : (src.copy dst n).wf := by
  induction n with
  | zero => exact h
  | succ n ih => rw [Memory.copy_succ]; exact Memory.write_wf ih _ _

/-- A copy of `n` bytes: the first `n` indexes read as in the source, the others as before. -/
theorem Memory.read_copy (src : Memory) {dst : Memory} (h : dst.wf) (n j : Nat) :
    (src.copy dst n).read j = if j < n then src.read j else dst.read j := by
  induction n with
  | zero => simp [Memory.copy_zero]
  | succ n ih =>
    rw [Memory.copy_succ, Memory.read_write (Memory.copy_wf src h n), ih]
    rcases Nat.lt_trichotomy j n with hj | rfl | hj
    · simp [hj, Nat.ne_of_lt hj, Nat.lt_succ_of_lt hj]
    · simp
    · have h1 : j ≠ n := by omega
      have h2 : ¬ j < n := by omega
      have h3 : ¬ j < n + 1 := by omega
      simp [h1, h2, h3]

/-- The indexes a copy lists. -/
theorem Memory.mem_copy {src dst : Memory} {n : Nat} {x : Host.Cell} (h : x ∈ src.copy dst n) :
    x ∈ dst ∨ x.1 < n := by
  induction n with
  | zero => exact .inl h
  | succ n ih =>
    rw [Memory.copy_succ] at h
    rcases Memory.mem_write h with h | rfl
    · rcases ih h with h | h
      · exact .inl h
      · exact .inr (by omega)
    · exact .inr (by simp)

@[simp] theorem Memory.length_bytes (m : Memory) (n : Nat) : (m.bytes n).length = n := by simp [Memory.bytes]

/-- Two buffers that read alike below `n` have the same first `n` bytes. -/
theorem Memory.bytes_congr {m m' : Memory} {n : Nat} (h : ∀ i < n, m.read i = m'.read i) : m.bytes n = m'.bytes n := by
  simp only [Memory.bytes]
  exact List.map_congr_left fun i hi => h i (List.mem_range.1 hi)

/-- Equal reads mean equal canonical buffers: the form is canonical. -/
theorem Memory.ext_of_read {m m' : Memory} (hm : m.wf) (hm' : m'.wf) (h : ∀ i, m.read i = m'.read i) : m = m' := by
  induction m generalizing m' with
  | nil =>
    cases m' with
    | nil => rfl
    | cons y l =>
      obtain ⟨a, c⟩ := y
      have := h a
      simp [Memory.read] at this
      exact absurd this.symm (Memory.wf_cons.1 hm').2.1
  | cons x m ih =>
    obtain ⟨a, c⟩ := x
    obtain ⟨hlt, hc, hw⟩ := Memory.wf_cons.1 hm
    cases m' with
    | nil =>
      have := h a
      simp [Memory.read] at this
      exact absurd this hc
    | cons y l =>
      obtain ⟨a', c'⟩ := y
      obtain ⟨hlt', hc', hw'⟩ := Memory.wf_cons.1 hm'
      have haa : a = a' := by
        rcases Nat.lt_trichotomy a a' with hl | he | hl
        · have := h a
          rw [Memory.read_of_lt (m := (a', c') :: l) (i := a)] at this
          · simp [Memory.read] at this; exact absurd this hc
          · intro z hz
            rcases List.mem_cons.1 hz with rfl | hz
            · exact hl
            · have := hlt' z hz; omega
        · exact he
        · have := h a'
          rw [Memory.read_of_lt (m := (a, c) :: m) (i := a')] at this
          · simp [Memory.read] at this; exact absurd this.symm hc'
          · intro z hz
            rcases List.mem_cons.1 hz with rfl | hz
            · exact hl
            · have := hlt z hz; omega
      subst haa
      have hcc : c = c' := by have := h a; simpa [Memory.read] using this
      subst hcc
      congr 1
      refine ih hw hw' fun i => ?_
      by_cases hi : i = a
      · subst hi; rw [Memory.read_of_lt hlt, Memory.read_of_lt hlt']
      · have := h i; simpa [Memory.read, hi] using this

end Sys2Proof.Machine
end

