-- ==== Sys2Proof/Laws/State.lean ====
section
/-! SUPPORT. What each named update of the state does to each field, one lemma per field per update, so that no later
proof unfolds an update. -/

namespace Sys2Proof.Machine

/-! ### `State.respond` -/

@[simp] theorem State.respond_bufmax (s : State) (c : Code) (d : Word) : (s.respond c d).bufmax = s.bufmax := rfl
@[simp] theorem State.respond_slots (s : State) (c : Code) (d : Word) : (s.respond c d).slots = s.slots := rfl
@[simp] theorem State.respond_ie (s : State) (c : Code) (d : Word) : (s.respond c d).ie = s.ie := rfl
@[simp] theorem State.respond_noise (s : State) (c : Code) (d : Word) : (s.respond c d).noise = s.noise := rfl
@[simp] theorem State.respond_mism (s : State) (c : Code) (d : Word) : (s.respond c d).mism = s.mism := rfl
@[simp] theorem State.respond_ovf (s : State) (c : Code) (d : Word) : (s.respond c d).ovf = s.ovf := rfl
@[simp] theorem State.respond_ovr (s : State) (c : Code) (d : Word) : (s.respond c d).ovr = s.ovr := rfl
@[simp] theorem State.respond_err (s : State) (c : Code) (d : Word) : (s.respond c d).err = s.err := rfl
@[simp] theorem State.respond_outv (s : State) (c : Code) (d : Word) : (s.respond c d).outv = s.outv := rfl
@[simp] theorem State.respond_outLen (s : State) (c : Code) (d : Word) : (s.respond c d).outLen = s.outLen := rfl
@[simp] theorem State.respond_outSchema (s : State) (c : Code) (d : Word) : (s.respond c d).outSchema = s.outSchema := rfl
@[simp] theorem State.respond_outCkok (s : State) (c : Code) (d : Word) : (s.respond c d).outCkok = s.outCkok := rfl
@[simp] theorem State.respond_obuf (s : State) (c : Code) (d : Word) : (s.respond c d).obuf = s.obuf := rfl
@[simp] theorem State.respond_fsm (s : State) (c : Code) (d : Word) : (s.respond c d).fsm = s.fsm := rfl
@[simp] theorem State.respond_pos (s : State) (c : Code) (d : Word) : (s.respond c d).pos = s.pos := rfl
@[simp] theorem State.respond_slot (s : State) (c : Code) (d : Word) : (s.respond c d).slot = s.slot := rfl
@[simp] theorem State.respond_rq (s : State) (c : Code) (d : Word) : (s.respond c d).rq = s.rq := rfl
@[simp] theorem State.respond_candr (s : State) (c : Code) (d : Word) : (s.respond c d).candr = s.candr := rfl
@[simp] theorem State.respond_candn (s : State) (c : Code) (d : Word) : (s.respond c d).candn = s.candn := rfl
@[simp] theorem State.respond_rbuf (s : State) (c : Code) (d : Word) : (s.respond c d).rbuf = s.rbuf := rfl
@[simp] theorem State.respond_ckKind (s : State) (c : Code) (d : Word) : (s.respond c d).ckKind = s.ckKind := rfl
@[simp] theorem State.respond_ckCnt (s : State) (c : Code) (d : Word) : (s.respond c d).ckCnt = s.ckCnt := rfl
@[simp] theorem State.respond_ckAcc (s : State) (c : Code) (d : Word) : (s.respond c d).ckAcc = s.ckAcc := rfl
@[simp] theorem State.respond_ckP1 (s : State) (c : Code) (d : Word) : (s.respond c d).ckP1 = s.ckP1 := rfl
@[simp] theorem State.respond_ckP2 (s : State) (c : Code) (d : Word) : (s.respond c d).ckP2 = s.ckP2 := rfl
@[simp] theorem State.respond_ckB1 (s : State) (c : Code) (d : Word) : (s.respond c d).ckB1 = s.ckB1 := rfl
@[simp] theorem State.respond_ckB2 (s : State) (c : Code) (d : Word) : (s.respond c d).ckB2 = s.ckB2 := rfl
@[simp] theorem State.respond_response (s : State) (c : Code) (d : Word) : (s.respond c d).response = some ⟨c, d⟩ := rfl
@[simp] theorem State.respond_port (s : State) (c : Code) (d : Word) : (s.respond c d).port = s.port := rfl

/-! ### `State.raise` -/

@[simp] theorem State.raise_bufmax (s : State) (c : Code) : (s.raise c).bufmax = s.bufmax := rfl
@[simp] theorem State.raise_slots (s : State) (c : Code) : (s.raise c).slots = s.slots := rfl
@[simp] theorem State.raise_ie (s : State) (c : Code) : (s.raise c).ie = s.ie := rfl
@[simp] theorem State.raise_noise (s : State) (c : Code) : (s.raise c).noise = s.noise := rfl
@[simp] theorem State.raise_mism (s : State) (c : Code) : (s.raise c).mism = s.mism := rfl
@[simp] theorem State.raise_ovf (s : State) (c : Code) : (s.raise c).ovf = s.ovf := rfl
@[simp] theorem State.raise_ovr (s : State) (c : Code) : (s.raise c).ovr = s.ovr := rfl
@[simp] theorem State.raise_err (s : State) (c : Code) : (s.raise c).err = true := rfl
@[simp] theorem State.raise_outv (s : State) (c : Code) : (s.raise c).outv = s.outv := rfl
@[simp] theorem State.raise_outLen (s : State) (c : Code) : (s.raise c).outLen = s.outLen := rfl
@[simp] theorem State.raise_outSchema (s : State) (c : Code) : (s.raise c).outSchema = s.outSchema := rfl
@[simp] theorem State.raise_outCkok (s : State) (c : Code) : (s.raise c).outCkok = s.outCkok := rfl
@[simp] theorem State.raise_obuf (s : State) (c : Code) : (s.raise c).obuf = s.obuf := rfl
@[simp] theorem State.raise_fsm (s : State) (c : Code) : (s.raise c).fsm = s.fsm := rfl
@[simp] theorem State.raise_pos (s : State) (c : Code) : (s.raise c).pos = s.pos := rfl
@[simp] theorem State.raise_slot (s : State) (c : Code) : (s.raise c).slot = s.slot := rfl
@[simp] theorem State.raise_rq (s : State) (c : Code) : (s.raise c).rq = s.rq := rfl
@[simp] theorem State.raise_candr (s : State) (c : Code) : (s.raise c).candr = s.candr := rfl
@[simp] theorem State.raise_candn (s : State) (c : Code) : (s.raise c).candn = s.candn := rfl
@[simp] theorem State.raise_rbuf (s : State) (c : Code) : (s.raise c).rbuf = s.rbuf := rfl
@[simp] theorem State.raise_ckKind (s : State) (c : Code) : (s.raise c).ckKind = s.ckKind := rfl
@[simp] theorem State.raise_ckCnt (s : State) (c : Code) : (s.raise c).ckCnt = s.ckCnt := rfl
@[simp] theorem State.raise_ckAcc (s : State) (c : Code) : (s.raise c).ckAcc = s.ckAcc := rfl
@[simp] theorem State.raise_ckP1 (s : State) (c : Code) : (s.raise c).ckP1 = s.ckP1 := rfl
@[simp] theorem State.raise_ckP2 (s : State) (c : Code) : (s.raise c).ckP2 = s.ckP2 := rfl
@[simp] theorem State.raise_ckB1 (s : State) (c : Code) : (s.raise c).ckB1 = s.ckB1 := rfl
@[simp] theorem State.raise_ckB2 (s : State) (c : Code) : (s.raise c).ckB2 = s.ckB2 := rfl
@[simp] theorem State.raise_response (s : State) (c : Code) : (s.raise c).response = some ⟨c, 0x0000⟩ := rfl
@[simp] theorem State.raise_port (s : State) (c : Code) : (s.raise c).port = s.port := rfl

/-! ### `State.goIdle` -/

@[simp] theorem State.goIdle_bufmax (s : State) : s.goIdle.bufmax = s.bufmax := rfl
@[simp] theorem State.goIdle_slots (s : State) : s.goIdle.slots = s.slots := rfl
@[simp] theorem State.goIdle_ie (s : State) : s.goIdle.ie = s.ie := rfl
@[simp] theorem State.goIdle_noise (s : State) : s.goIdle.noise = s.noise := rfl
@[simp] theorem State.goIdle_mism (s : State) : s.goIdle.mism = s.mism := rfl
@[simp] theorem State.goIdle_ovf (s : State) : s.goIdle.ovf = s.ovf := rfl
@[simp] theorem State.goIdle_ovr (s : State) : s.goIdle.ovr = s.ovr := rfl
@[simp] theorem State.goIdle_err (s : State) : s.goIdle.err = s.err := rfl
@[simp] theorem State.goIdle_outv (s : State) : s.goIdle.outv = s.outv := rfl
@[simp] theorem State.goIdle_outLen (s : State) : s.goIdle.outLen = s.outLen := rfl
@[simp] theorem State.goIdle_outSchema (s : State) : s.goIdle.outSchema = s.outSchema := rfl
@[simp] theorem State.goIdle_outCkok (s : State) : s.goIdle.outCkok = s.outCkok := rfl
@[simp] theorem State.goIdle_obuf (s : State) : s.goIdle.obuf = s.obuf := rfl
@[simp] theorem State.goIdle_fsm (s : State) : s.goIdle.fsm = .idle := rfl
@[simp] theorem State.goIdle_pos (s : State) : s.goIdle.pos = 0 := rfl
@[simp] theorem State.goIdle_slot (s : State) : s.goIdle.slot = 0 := rfl
@[simp] theorem State.goIdle_rq (s : State) : s.goIdle.rq = s.rq := rfl
@[simp] theorem State.goIdle_candr (s : State) : s.goIdle.candr = 0 := rfl
@[simp] theorem State.goIdle_candn (s : State) : s.goIdle.candn = 0 := rfl
@[simp] theorem State.goIdle_rbuf (s : State) : s.goIdle.rbuf = s.rbuf := rfl
@[simp] theorem State.goIdle_ckKind (s : State) : s.goIdle.ckKind = s.ckKind := rfl
@[simp] theorem State.goIdle_ckCnt (s : State) : s.goIdle.ckCnt = s.ckCnt := rfl
@[simp] theorem State.goIdle_ckAcc (s : State) : s.goIdle.ckAcc = s.ckAcc := rfl
@[simp] theorem State.goIdle_ckP1 (s : State) : s.goIdle.ckP1 = s.ckP1 := rfl
@[simp] theorem State.goIdle_ckP2 (s : State) : s.goIdle.ckP2 = s.ckP2 := rfl
@[simp] theorem State.goIdle_ckB1 (s : State) : s.goIdle.ckB1 = s.ckB1 := rfl
@[simp] theorem State.goIdle_ckB2 (s : State) : s.goIdle.ckB2 = s.ckB2 := rfl
@[simp] theorem State.goIdle_response (s : State) : s.goIdle.response = s.response := rfl
@[simp] theorem State.goIdle_port (s : State) : s.goIdle.port = s.port := rfl

/-! ### `State.resetEvent` -/

@[simp] theorem State.resetEvent_bufmax (s : State) : s.resetEvent.bufmax = s.bufmax := rfl
@[simp] theorem State.resetEvent_slots (s : State) : s.resetEvent.slots = List.replicate s.nschema Slot.reset := rfl
@[simp] theorem State.resetEvent_ie (s : State) : s.resetEvent.ie = 0 := rfl
@[simp] theorem State.resetEvent_noise (s : State) : s.resetEvent.noise = false := rfl
@[simp] theorem State.resetEvent_mism (s : State) : s.resetEvent.mism = false := rfl
@[simp] theorem State.resetEvent_ovf (s : State) : s.resetEvent.ovf = false := rfl
@[simp] theorem State.resetEvent_ovr (s : State) : s.resetEvent.ovr = false := rfl
@[simp] theorem State.resetEvent_err (s : State) : s.resetEvent.err = false := rfl
@[simp] theorem State.resetEvent_outv (s : State) : s.resetEvent.outv = false := rfl
@[simp] theorem State.resetEvent_outLen (s : State) : s.resetEvent.outLen = 0 := rfl
@[simp] theorem State.resetEvent_outSchema (s : State) : s.resetEvent.outSchema = 0 := rfl
@[simp] theorem State.resetEvent_outCkok (s : State) : s.resetEvent.outCkok = false := rfl
@[simp] theorem State.resetEvent_obuf (s : State) : s.resetEvent.obuf = [] := rfl
@[simp] theorem State.resetEvent_fsm (s : State) : s.resetEvent.fsm = .idle := rfl
@[simp] theorem State.resetEvent_pos (s : State) : s.resetEvent.pos = 0 := rfl
@[simp] theorem State.resetEvent_slot (s : State) : s.resetEvent.slot = 0 := rfl
@[simp] theorem State.resetEvent_rq (s : State) : s.resetEvent.rq = false := rfl
@[simp] theorem State.resetEvent_candr (s : State) : s.resetEvent.candr = 0 := rfl
@[simp] theorem State.resetEvent_candn (s : State) : s.resetEvent.candn = 0 := rfl
@[simp] theorem State.resetEvent_rbuf (s : State) : s.resetEvent.rbuf = [] := rfl
@[simp] theorem State.resetEvent_ckKind (s : State) : s.resetEvent.ckKind = .crc := rfl
@[simp] theorem State.resetEvent_ckCnt (s : State) : s.resetEvent.ckCnt = 0 := rfl
@[simp] theorem State.resetEvent_ckAcc (s : State) : s.resetEvent.ckAcc = 0xFFFF := rfl
@[simp] theorem State.resetEvent_ckP1 (s : State) : s.resetEvent.ckP1 = 0xFFFF := rfl
@[simp] theorem State.resetEvent_ckP2 (s : State) : s.resetEvent.ckP2 = 0xFFFF := rfl
@[simp] theorem State.resetEvent_ckB1 (s : State) : s.resetEvent.ckB1 = 0 := rfl
@[simp] theorem State.resetEvent_ckB2 (s : State) : s.resetEvent.ckB2 = 0 := rfl
@[simp] theorem State.resetEvent_response (s : State) : s.resetEvent.response = none := rfl
@[simp] theorem State.resetEvent_port (s : State) : s.resetEvent.port = s.port := rfl

/-! ### `State.clearSticky` -/

@[simp] theorem State.clearSticky_bufmax (s : State) (d : Word) : (s.clearSticky d).bufmax = s.bufmax := rfl
@[simp] theorem State.clearSticky_slots (s : State) (d : Word) : (s.clearSticky d).slots = s.slots := rfl
@[simp] theorem State.clearSticky_ie (s : State) (d : Word) : (s.clearSticky d).ie = s.ie := rfl
@[simp] theorem State.clearSticky_noise (s : State) (d : Word) : (s.clearSticky d).noise = (s.noise && !d.getLsbD 8) := rfl
@[simp] theorem State.clearSticky_mism (s : State) (d : Word) : (s.clearSticky d).mism = (s.mism && !d.getLsbD 9) := rfl
@[simp] theorem State.clearSticky_ovf (s : State) (d : Word) : (s.clearSticky d).ovf = (s.ovf && !d.getLsbD 10) := rfl
@[simp] theorem State.clearSticky_ovr (s : State) (d : Word) : (s.clearSticky d).ovr = (s.ovr && !d.getLsbD 11) := rfl
@[simp] theorem State.clearSticky_err (s : State) (d : Word) : (s.clearSticky d).err = (s.err && !d.getLsbD 12) := rfl
@[simp] theorem State.clearSticky_outv (s : State) (d : Word) : (s.clearSticky d).outv = s.outv := rfl
@[simp] theorem State.clearSticky_outLen (s : State) (d : Word) : (s.clearSticky d).outLen = s.outLen := rfl
@[simp] theorem State.clearSticky_outSchema (s : State) (d : Word) : (s.clearSticky d).outSchema = s.outSchema := rfl
@[simp] theorem State.clearSticky_outCkok (s : State) (d : Word) : (s.clearSticky d).outCkok = s.outCkok := rfl
@[simp] theorem State.clearSticky_obuf (s : State) (d : Word) : (s.clearSticky d).obuf = s.obuf := rfl
@[simp] theorem State.clearSticky_fsm (s : State) (d : Word) : (s.clearSticky d).fsm = s.fsm := rfl
@[simp] theorem State.clearSticky_pos (s : State) (d : Word) : (s.clearSticky d).pos = s.pos := rfl
@[simp] theorem State.clearSticky_slot (s : State) (d : Word) : (s.clearSticky d).slot = s.slot := rfl
@[simp] theorem State.clearSticky_rq (s : State) (d : Word) : (s.clearSticky d).rq = s.rq := rfl
@[simp] theorem State.clearSticky_candr (s : State) (d : Word) : (s.clearSticky d).candr = s.candr := rfl
@[simp] theorem State.clearSticky_candn (s : State) (d : Word) : (s.clearSticky d).candn = s.candn := rfl
@[simp] theorem State.clearSticky_rbuf (s : State) (d : Word) : (s.clearSticky d).rbuf = s.rbuf := rfl
@[simp] theorem State.clearSticky_ckKind (s : State) (d : Word) : (s.clearSticky d).ckKind = s.ckKind := rfl
@[simp] theorem State.clearSticky_ckCnt (s : State) (d : Word) : (s.clearSticky d).ckCnt = s.ckCnt := rfl
@[simp] theorem State.clearSticky_ckAcc (s : State) (d : Word) : (s.clearSticky d).ckAcc = s.ckAcc := rfl
@[simp] theorem State.clearSticky_ckP1 (s : State) (d : Word) : (s.clearSticky d).ckP1 = s.ckP1 := rfl
@[simp] theorem State.clearSticky_ckP2 (s : State) (d : Word) : (s.clearSticky d).ckP2 = s.ckP2 := rfl
@[simp] theorem State.clearSticky_ckB1 (s : State) (d : Word) : (s.clearSticky d).ckB1 = s.ckB1 := rfl
@[simp] theorem State.clearSticky_ckB2 (s : State) (d : Word) : (s.clearSticky d).ckB2 = s.ckB2 := rfl
@[simp] theorem State.clearSticky_response (s : State) (d : Word) : (s.clearSticky d).response = s.response := rfl
@[simp] theorem State.clearSticky_port (s : State) (d : Word) : (s.clearSticky d).port = s.port := rfl

/-! ### `State.setSlot` -/

@[simp] theorem State.setSlot_bufmax (s : State) (j : Nat) (x : Slot) : (s.setSlot j x).bufmax = s.bufmax := rfl
@[simp] theorem State.setSlot_slots (s : State) (j : Nat) (x : Slot) : (s.setSlot j x).slots = s.slots.set j x := rfl
@[simp] theorem State.setSlot_ie (s : State) (j : Nat) (x : Slot) : (s.setSlot j x).ie = s.ie := rfl
@[simp] theorem State.setSlot_noise (s : State) (j : Nat) (x : Slot) : (s.setSlot j x).noise = s.noise := rfl
@[simp] theorem State.setSlot_mism (s : State) (j : Nat) (x : Slot) : (s.setSlot j x).mism = s.mism := rfl
@[simp] theorem State.setSlot_ovf (s : State) (j : Nat) (x : Slot) : (s.setSlot j x).ovf = s.ovf := rfl
@[simp] theorem State.setSlot_ovr (s : State) (j : Nat) (x : Slot) : (s.setSlot j x).ovr = s.ovr := rfl
@[simp] theorem State.setSlot_err (s : State) (j : Nat) (x : Slot) : (s.setSlot j x).err = s.err := rfl
@[simp] theorem State.setSlot_outv (s : State) (j : Nat) (x : Slot) : (s.setSlot j x).outv = s.outv := rfl
@[simp] theorem State.setSlot_outLen (s : State) (j : Nat) (x : Slot) : (s.setSlot j x).outLen = s.outLen := rfl
@[simp] theorem State.setSlot_outSchema (s : State) (j : Nat) (x : Slot) : (s.setSlot j x).outSchema = s.outSchema := rfl
@[simp] theorem State.setSlot_outCkok (s : State) (j : Nat) (x : Slot) : (s.setSlot j x).outCkok = s.outCkok := rfl
@[simp] theorem State.setSlot_obuf (s : State) (j : Nat) (x : Slot) : (s.setSlot j x).obuf = s.obuf := rfl
@[simp] theorem State.setSlot_fsm (s : State) (j : Nat) (x : Slot) : (s.setSlot j x).fsm = s.fsm := rfl
@[simp] theorem State.setSlot_pos (s : State) (j : Nat) (x : Slot) : (s.setSlot j x).pos = s.pos := rfl
@[simp] theorem State.setSlot_slot (s : State) (j : Nat) (x : Slot) : (s.setSlot j x).slot = s.slot := rfl
@[simp] theorem State.setSlot_rq (s : State) (j : Nat) (x : Slot) : (s.setSlot j x).rq = s.rq := rfl
@[simp] theorem State.setSlot_candr (s : State) (j : Nat) (x : Slot) : (s.setSlot j x).candr = s.candr := rfl
@[simp] theorem State.setSlot_candn (s : State) (j : Nat) (x : Slot) : (s.setSlot j x).candn = s.candn := rfl
@[simp] theorem State.setSlot_rbuf (s : State) (j : Nat) (x : Slot) : (s.setSlot j x).rbuf = s.rbuf := rfl
@[simp] theorem State.setSlot_ckKind (s : State) (j : Nat) (x : Slot) : (s.setSlot j x).ckKind = s.ckKind := rfl
@[simp] theorem State.setSlot_ckCnt (s : State) (j : Nat) (x : Slot) : (s.setSlot j x).ckCnt = s.ckCnt := rfl
@[simp] theorem State.setSlot_ckAcc (s : State) (j : Nat) (x : Slot) : (s.setSlot j x).ckAcc = s.ckAcc := rfl
@[simp] theorem State.setSlot_ckP1 (s : State) (j : Nat) (x : Slot) : (s.setSlot j x).ckP1 = s.ckP1 := rfl
@[simp] theorem State.setSlot_ckP2 (s : State) (j : Nat) (x : Slot) : (s.setSlot j x).ckP2 = s.ckP2 := rfl
@[simp] theorem State.setSlot_ckB1 (s : State) (j : Nat) (x : Slot) : (s.setSlot j x).ckB1 = s.ckB1 := rfl
@[simp] theorem State.setSlot_ckB2 (s : State) (j : Nat) (x : Slot) : (s.setSlot j x).ckB2 = s.ckB2 := rfl
@[simp] theorem State.setSlot_response (s : State) (j : Nat) (x : Slot) : (s.setSlot j x).response = s.response := rfl
@[simp] theorem State.setSlot_port (s : State) (j : Nat) (x : Slot) : (s.setSlot j x).port = s.port := rfl

/-! ### `State.seed` -/

@[simp] theorem State.seed_bufmax (s : State) : s.seed.bufmax = s.bufmax := rfl
@[simp] theorem State.seed_slots (s : State) : s.seed.slots = s.slots := rfl
@[simp] theorem State.seed_ie (s : State) : s.seed.ie = s.ie := rfl
@[simp] theorem State.seed_noise (s : State) : s.seed.noise = s.noise := rfl
@[simp] theorem State.seed_mism (s : State) : s.seed.mism = s.mism := rfl
@[simp] theorem State.seed_ovf (s : State) : s.seed.ovf = s.ovf := rfl
@[simp] theorem State.seed_ovr (s : State) : s.seed.ovr = s.ovr := rfl
@[simp] theorem State.seed_err (s : State) : s.seed.err = s.err := rfl
@[simp] theorem State.seed_outv (s : State) : s.seed.outv = s.outv := rfl
@[simp] theorem State.seed_outLen (s : State) : s.seed.outLen = s.outLen := rfl
@[simp] theorem State.seed_outSchema (s : State) : s.seed.outSchema = s.outSchema := rfl
@[simp] theorem State.seed_outCkok (s : State) : s.seed.outCkok = s.outCkok := rfl
@[simp] theorem State.seed_obuf (s : State) : s.seed.obuf = s.obuf := rfl
@[simp] theorem State.seed_fsm (s : State) : s.seed.fsm = .hdr := rfl
@[simp] theorem State.seed_pos (s : State) : s.seed.pos = 0 := rfl
@[simp] theorem State.seed_slot (s : State) : s.seed.slot = s.slot := rfl
@[simp] theorem State.seed_rq (s : State) : s.seed.rq = s.rq := rfl
@[simp] theorem State.seed_candr (s : State) : s.seed.candr = slotSet s.nschema fun j => s.eligible j := rfl
@[simp] theorem State.seed_candn (s : State) : s.seed.candn = slotSet s.nschema fun j => s.eligible j && decide (1 ≤ (s.slotAt j).nhlen) := rfl
@[simp] theorem State.seed_rbuf (s : State) : s.seed.rbuf = s.rbuf := rfl
@[simp] theorem State.seed_ckKind (s : State) : s.seed.ckKind = s.ckKind := rfl
@[simp] theorem State.seed_ckCnt (s : State) : s.seed.ckCnt = s.ckCnt := rfl
@[simp] theorem State.seed_ckAcc (s : State) : s.seed.ckAcc = s.ckAcc := rfl
@[simp] theorem State.seed_ckP1 (s : State) : s.seed.ckP1 = s.ckP1 := rfl
@[simp] theorem State.seed_ckP2 (s : State) : s.seed.ckP2 = s.ckP2 := rfl
@[simp] theorem State.seed_ckB1 (s : State) : s.seed.ckB1 = s.ckB1 := rfl
@[simp] theorem State.seed_ckB2 (s : State) : s.seed.ckB2 = s.ckB2 := rfl
@[simp] theorem State.seed_response (s : State) : s.seed.response = s.response := rfl
@[simp] theorem State.seed_port (s : State) : s.seed.port = s.port := rfl

/-! ### `State.dropNoise` -/

@[simp] theorem State.dropNoise_bufmax (s : State) : s.dropNoise.bufmax = s.bufmax := rfl
@[simp] theorem State.dropNoise_slots (s : State) : s.dropNoise.slots = s.slots := rfl
@[simp] theorem State.dropNoise_ie (s : State) : s.dropNoise.ie = s.ie := rfl
@[simp] theorem State.dropNoise_noise (s : State) : s.dropNoise.noise = true := rfl
@[simp] theorem State.dropNoise_mism (s : State) : s.dropNoise.mism = s.mism := rfl
@[simp] theorem State.dropNoise_ovf (s : State) : s.dropNoise.ovf = s.ovf := rfl
@[simp] theorem State.dropNoise_ovr (s : State) : s.dropNoise.ovr = s.ovr := rfl
@[simp] theorem State.dropNoise_err (s : State) : s.dropNoise.err = s.err := rfl
@[simp] theorem State.dropNoise_outv (s : State) : s.dropNoise.outv = s.outv := rfl
@[simp] theorem State.dropNoise_outLen (s : State) : s.dropNoise.outLen = s.outLen := rfl
@[simp] theorem State.dropNoise_outSchema (s : State) : s.dropNoise.outSchema = s.outSchema := rfl
@[simp] theorem State.dropNoise_outCkok (s : State) : s.dropNoise.outCkok = s.outCkok := rfl
@[simp] theorem State.dropNoise_obuf (s : State) : s.dropNoise.obuf = s.obuf := rfl
@[simp] theorem State.dropNoise_fsm (s : State) : s.dropNoise.fsm = .idle := rfl
@[simp] theorem State.dropNoise_pos (s : State) : s.dropNoise.pos = 0 := rfl
@[simp] theorem State.dropNoise_slot (s : State) : s.dropNoise.slot = 0 := rfl
@[simp] theorem State.dropNoise_rq (s : State) : s.dropNoise.rq = s.rq := rfl
@[simp] theorem State.dropNoise_candr (s : State) : s.dropNoise.candr = 0 := rfl
@[simp] theorem State.dropNoise_candn (s : State) : s.dropNoise.candn = 0 := rfl
@[simp] theorem State.dropNoise_rbuf (s : State) : s.dropNoise.rbuf = s.rbuf := rfl
@[simp] theorem State.dropNoise_ckKind (s : State) : s.dropNoise.ckKind = s.ckKind := rfl
@[simp] theorem State.dropNoise_ckCnt (s : State) : s.dropNoise.ckCnt = s.ckCnt := rfl
@[simp] theorem State.dropNoise_ckAcc (s : State) : s.dropNoise.ckAcc = s.ckAcc := rfl
@[simp] theorem State.dropNoise_ckP1 (s : State) : s.dropNoise.ckP1 = s.ckP1 := rfl
@[simp] theorem State.dropNoise_ckP2 (s : State) : s.dropNoise.ckP2 = s.ckP2 := rfl
@[simp] theorem State.dropNoise_ckB1 (s : State) : s.dropNoise.ckB1 = s.ckB1 := rfl
@[simp] theorem State.dropNoise_ckB2 (s : State) : s.dropNoise.ckB2 = s.ckB2 := rfl
@[simp] theorem State.dropNoise_response (s : State) : s.dropNoise.response = s.response := rfl
@[simp] theorem State.dropNoise_port (s : State) : s.dropNoise.port = s.port := rfl

/-! ### `State.dropMismatch` -/

@[simp] theorem State.dropMismatch_bufmax (s : State) : s.dropMismatch.bufmax = s.bufmax := rfl
@[simp] theorem State.dropMismatch_slots (s : State) : s.dropMismatch.slots = s.slots := rfl
@[simp] theorem State.dropMismatch_ie (s : State) : s.dropMismatch.ie = s.ie := rfl
@[simp] theorem State.dropMismatch_noise (s : State) : s.dropMismatch.noise = s.noise := rfl
@[simp] theorem State.dropMismatch_mism (s : State) : s.dropMismatch.mism = true := rfl
@[simp] theorem State.dropMismatch_ovf (s : State) : s.dropMismatch.ovf = s.ovf := rfl
@[simp] theorem State.dropMismatch_ovr (s : State) : s.dropMismatch.ovr = s.ovr := rfl
@[simp] theorem State.dropMismatch_err (s : State) : s.dropMismatch.err = s.err := rfl
@[simp] theorem State.dropMismatch_outv (s : State) : s.dropMismatch.outv = s.outv := rfl
@[simp] theorem State.dropMismatch_outLen (s : State) : s.dropMismatch.outLen = s.outLen := rfl
@[simp] theorem State.dropMismatch_outSchema (s : State) : s.dropMismatch.outSchema = s.outSchema := rfl
@[simp] theorem State.dropMismatch_outCkok (s : State) : s.dropMismatch.outCkok = s.outCkok := rfl
@[simp] theorem State.dropMismatch_obuf (s : State) : s.dropMismatch.obuf = s.obuf := rfl
@[simp] theorem State.dropMismatch_fsm (s : State) : s.dropMismatch.fsm = .idle := rfl
@[simp] theorem State.dropMismatch_pos (s : State) : s.dropMismatch.pos = 0 := rfl
@[simp] theorem State.dropMismatch_slot (s : State) : s.dropMismatch.slot = 0 := rfl
@[simp] theorem State.dropMismatch_rq (s : State) : s.dropMismatch.rq = s.rq := rfl
@[simp] theorem State.dropMismatch_candr (s : State) : s.dropMismatch.candr = 0 := rfl
@[simp] theorem State.dropMismatch_candn (s : State) : s.dropMismatch.candn = 0 := rfl
@[simp] theorem State.dropMismatch_rbuf (s : State) : s.dropMismatch.rbuf = s.rbuf := rfl
@[simp] theorem State.dropMismatch_ckKind (s : State) : s.dropMismatch.ckKind = s.ckKind := rfl
@[simp] theorem State.dropMismatch_ckCnt (s : State) : s.dropMismatch.ckCnt = s.ckCnt := rfl
@[simp] theorem State.dropMismatch_ckAcc (s : State) : s.dropMismatch.ckAcc = s.ckAcc := rfl
@[simp] theorem State.dropMismatch_ckP1 (s : State) : s.dropMismatch.ckP1 = s.ckP1 := rfl
@[simp] theorem State.dropMismatch_ckP2 (s : State) : s.dropMismatch.ckP2 = s.ckP2 := rfl
@[simp] theorem State.dropMismatch_ckB1 (s : State) : s.dropMismatch.ckB1 = s.ckB1 := rfl
@[simp] theorem State.dropMismatch_ckB2 (s : State) : s.dropMismatch.ckB2 = s.ckB2 := rfl
@[simp] theorem State.dropMismatch_response (s : State) : s.dropMismatch.response = s.response := rfl
@[simp] theorem State.dropMismatch_port (s : State) : s.dropMismatch.port = s.port := rfl

/-! ### `State.dropOverflow` -/

@[simp] theorem State.dropOverflow_bufmax (s : State) : s.dropOverflow.bufmax = s.bufmax := rfl
@[simp] theorem State.dropOverflow_slots (s : State) : s.dropOverflow.slots = s.slots := rfl
@[simp] theorem State.dropOverflow_ie (s : State) : s.dropOverflow.ie = s.ie := rfl
@[simp] theorem State.dropOverflow_noise (s : State) : s.dropOverflow.noise = s.noise := rfl
@[simp] theorem State.dropOverflow_mism (s : State) : s.dropOverflow.mism = s.mism := rfl
@[simp] theorem State.dropOverflow_ovf (s : State) : s.dropOverflow.ovf = true := rfl
@[simp] theorem State.dropOverflow_ovr (s : State) : s.dropOverflow.ovr = s.ovr := rfl
@[simp] theorem State.dropOverflow_err (s : State) : s.dropOverflow.err = s.err := rfl
@[simp] theorem State.dropOverflow_outv (s : State) : s.dropOverflow.outv = s.outv := rfl
@[simp] theorem State.dropOverflow_outLen (s : State) : s.dropOverflow.outLen = s.outLen := rfl
@[simp] theorem State.dropOverflow_outSchema (s : State) : s.dropOverflow.outSchema = s.outSchema := rfl
@[simp] theorem State.dropOverflow_outCkok (s : State) : s.dropOverflow.outCkok = s.outCkok := rfl
@[simp] theorem State.dropOverflow_obuf (s : State) : s.dropOverflow.obuf = s.obuf := rfl
@[simp] theorem State.dropOverflow_fsm (s : State) : s.dropOverflow.fsm = .idle := rfl
@[simp] theorem State.dropOverflow_pos (s : State) : s.dropOverflow.pos = 0 := rfl
@[simp] theorem State.dropOverflow_slot (s : State) : s.dropOverflow.slot = 0 := rfl
@[simp] theorem State.dropOverflow_rq (s : State) : s.dropOverflow.rq = s.rq := rfl
@[simp] theorem State.dropOverflow_candr (s : State) : s.dropOverflow.candr = 0 := rfl
@[simp] theorem State.dropOverflow_candn (s : State) : s.dropOverflow.candn = 0 := rfl
@[simp] theorem State.dropOverflow_rbuf (s : State) : s.dropOverflow.rbuf = s.rbuf := rfl
@[simp] theorem State.dropOverflow_ckKind (s : State) : s.dropOverflow.ckKind = s.ckKind := rfl
@[simp] theorem State.dropOverflow_ckCnt (s : State) : s.dropOverflow.ckCnt = s.ckCnt := rfl
@[simp] theorem State.dropOverflow_ckAcc (s : State) : s.dropOverflow.ckAcc = s.ckAcc := rfl
@[simp] theorem State.dropOverflow_ckP1 (s : State) : s.dropOverflow.ckP1 = s.ckP1 := rfl
@[simp] theorem State.dropOverflow_ckP2 (s : State) : s.dropOverflow.ckP2 = s.ckP2 := rfl
@[simp] theorem State.dropOverflow_ckB1 (s : State) : s.dropOverflow.ckB1 = s.ckB1 := rfl
@[simp] theorem State.dropOverflow_ckB2 (s : State) : s.dropOverflow.ckB2 = s.ckB2 := rfl
@[simp] theorem State.dropOverflow_response (s : State) : s.dropOverflow.response = s.response := rfl
@[simp] theorem State.dropOverflow_port (s : State) : s.dropOverflow.port = s.port := rfl

/-! ### `State.toAccum` -/

@[simp] theorem State.toAccum_bufmax (s : State) (j : Nat) : (s.toAccum j).bufmax = s.bufmax := rfl
@[simp] theorem State.toAccum_slots (s : State) (j : Nat) : (s.toAccum j).slots = s.slots := rfl
@[simp] theorem State.toAccum_ie (s : State) (j : Nat) : (s.toAccum j).ie = s.ie := rfl
@[simp] theorem State.toAccum_noise (s : State) (j : Nat) : (s.toAccum j).noise = s.noise := rfl
@[simp] theorem State.toAccum_mism (s : State) (j : Nat) : (s.toAccum j).mism = s.mism := rfl
@[simp] theorem State.toAccum_ovf (s : State) (j : Nat) : (s.toAccum j).ovf = s.ovf := rfl
@[simp] theorem State.toAccum_ovr (s : State) (j : Nat) : (s.toAccum j).ovr = s.ovr := rfl
@[simp] theorem State.toAccum_err (s : State) (j : Nat) : (s.toAccum j).err = s.err := rfl
@[simp] theorem State.toAccum_outv (s : State) (j : Nat) : (s.toAccum j).outv = s.outv := rfl
@[simp] theorem State.toAccum_outLen (s : State) (j : Nat) : (s.toAccum j).outLen = s.outLen := rfl
@[simp] theorem State.toAccum_outSchema (s : State) (j : Nat) : (s.toAccum j).outSchema = s.outSchema := rfl
@[simp] theorem State.toAccum_outCkok (s : State) (j : Nat) : (s.toAccum j).outCkok = s.outCkok := rfl
@[simp] theorem State.toAccum_obuf (s : State) (j : Nat) : (s.toAccum j).obuf = s.obuf := rfl
@[simp] theorem State.toAccum_fsm (s : State) (j : Nat) : (s.toAccum j).fsm = .accum := rfl
@[simp] theorem State.toAccum_pos (s : State) (j : Nat) : (s.toAccum j).pos = s.pos := rfl
@[simp] theorem State.toAccum_slot (s : State) (j : Nat) : (s.toAccum j).slot = BitVec.ofNat 3 j := rfl
@[simp] theorem State.toAccum_rq (s : State) (j : Nat) : (s.toAccum j).rq = s.rq := rfl
@[simp] theorem State.toAccum_candr (s : State) (j : Nat) : (s.toAccum j).candr = 0 := rfl
@[simp] theorem State.toAccum_candn (s : State) (j : Nat) : (s.toAccum j).candn = 0 := rfl
@[simp] theorem State.toAccum_rbuf (s : State) (j : Nat) : (s.toAccum j).rbuf = s.rbuf := rfl
@[simp] theorem State.toAccum_ckKind (s : State) (j : Nat) : (s.toAccum j).ckKind = s.ckKind := rfl
@[simp] theorem State.toAccum_ckCnt (s : State) (j : Nat) : (s.toAccum j).ckCnt = s.ckCnt := rfl
@[simp] theorem State.toAccum_ckAcc (s : State) (j : Nat) : (s.toAccum j).ckAcc = s.ckAcc := rfl
@[simp] theorem State.toAccum_ckP1 (s : State) (j : Nat) : (s.toAccum j).ckP1 = s.ckP1 := rfl
@[simp] theorem State.toAccum_ckP2 (s : State) (j : Nat) : (s.toAccum j).ckP2 = s.ckP2 := rfl
@[simp] theorem State.toAccum_ckB1 (s : State) (j : Nat) : (s.toAccum j).ckB1 = s.ckB1 := rfl
@[simp] theorem State.toAccum_ckB2 (s : State) (j : Nat) : (s.toAccum j).ckB2 = s.ckB2 := rfl
@[simp] theorem State.toAccum_response (s : State) (j : Nat) : (s.toAccum j).response = s.response := rfl
@[simp] theorem State.toAccum_port (s : State) (j : Nat) : (s.toAccum j).port = s.port := rfl

/-! ### `State.keepCandidates` -/

@[simp] theorem State.keepCandidates_bufmax (s : State) (cn cr : BitVec 8) : (s.keepCandidates cn cr).bufmax = s.bufmax := rfl
@[simp] theorem State.keepCandidates_slots (s : State) (cn cr : BitVec 8) : (s.keepCandidates cn cr).slots = s.slots := rfl
@[simp] theorem State.keepCandidates_ie (s : State) (cn cr : BitVec 8) : (s.keepCandidates cn cr).ie = s.ie := rfl
@[simp] theorem State.keepCandidates_noise (s : State) (cn cr : BitVec 8) : (s.keepCandidates cn cr).noise = s.noise := rfl
@[simp] theorem State.keepCandidates_mism (s : State) (cn cr : BitVec 8) : (s.keepCandidates cn cr).mism = s.mism := rfl
@[simp] theorem State.keepCandidates_ovf (s : State) (cn cr : BitVec 8) : (s.keepCandidates cn cr).ovf = s.ovf := rfl
@[simp] theorem State.keepCandidates_ovr (s : State) (cn cr : BitVec 8) : (s.keepCandidates cn cr).ovr = s.ovr := rfl
@[simp] theorem State.keepCandidates_err (s : State) (cn cr : BitVec 8) : (s.keepCandidates cn cr).err = s.err := rfl
@[simp] theorem State.keepCandidates_outv (s : State) (cn cr : BitVec 8) : (s.keepCandidates cn cr).outv = s.outv := rfl
@[simp] theorem State.keepCandidates_outLen (s : State) (cn cr : BitVec 8) : (s.keepCandidates cn cr).outLen = s.outLen := rfl
@[simp] theorem State.keepCandidates_outSchema (s : State) (cn cr : BitVec 8) : (s.keepCandidates cn cr).outSchema = s.outSchema := rfl
@[simp] theorem State.keepCandidates_outCkok (s : State) (cn cr : BitVec 8) : (s.keepCandidates cn cr).outCkok = s.outCkok := rfl
@[simp] theorem State.keepCandidates_obuf (s : State) (cn cr : BitVec 8) : (s.keepCandidates cn cr).obuf = s.obuf := rfl
@[simp] theorem State.keepCandidates_fsm (s : State) (cn cr : BitVec 8) : (s.keepCandidates cn cr).fsm = s.fsm := rfl
@[simp] theorem State.keepCandidates_pos (s : State) (cn cr : BitVec 8) : (s.keepCandidates cn cr).pos = s.pos := rfl
@[simp] theorem State.keepCandidates_slot (s : State) (cn cr : BitVec 8) : (s.keepCandidates cn cr).slot = s.slot := rfl
@[simp] theorem State.keepCandidates_rq (s : State) (cn cr : BitVec 8) : (s.keepCandidates cn cr).rq = s.rq := rfl
@[simp] theorem State.keepCandidates_candr (s : State) (cn cr : BitVec 8) : (s.keepCandidates cn cr).candr = cr := rfl
@[simp] theorem State.keepCandidates_candn (s : State) (cn cr : BitVec 8) : (s.keepCandidates cn cr).candn = cn := rfl
@[simp] theorem State.keepCandidates_rbuf (s : State) (cn cr : BitVec 8) : (s.keepCandidates cn cr).rbuf = s.rbuf := rfl
@[simp] theorem State.keepCandidates_ckKind (s : State) (cn cr : BitVec 8) : (s.keepCandidates cn cr).ckKind = s.ckKind := rfl
@[simp] theorem State.keepCandidates_ckCnt (s : State) (cn cr : BitVec 8) : (s.keepCandidates cn cr).ckCnt = s.ckCnt := rfl
@[simp] theorem State.keepCandidates_ckAcc (s : State) (cn cr : BitVec 8) : (s.keepCandidates cn cr).ckAcc = s.ckAcc := rfl
@[simp] theorem State.keepCandidates_ckP1 (s : State) (cn cr : BitVec 8) : (s.keepCandidates cn cr).ckP1 = s.ckP1 := rfl
@[simp] theorem State.keepCandidates_ckP2 (s : State) (cn cr : BitVec 8) : (s.keepCandidates cn cr).ckP2 = s.ckP2 := rfl
@[simp] theorem State.keepCandidates_ckB1 (s : State) (cn cr : BitVec 8) : (s.keepCandidates cn cr).ckB1 = s.ckB1 := rfl
@[simp] theorem State.keepCandidates_ckB2 (s : State) (cn cr : BitVec 8) : (s.keepCandidates cn cr).ckB2 = s.ckB2 := rfl
@[simp] theorem State.keepCandidates_response (s : State) (cn cr : BitVec 8) : (s.keepCandidates cn cr).response = s.response := rfl
@[simp] theorem State.keepCandidates_port (s : State) (cn cr : BitVec 8) : (s.keepCandidates cn cr).port = s.port := rfl

/-! ### `State.clearRq` -/

@[simp] theorem State.clearRq_bufmax (s : State) : s.clearRq.bufmax = s.bufmax := rfl
@[simp] theorem State.clearRq_slots (s : State) : s.clearRq.slots = s.slots := rfl
@[simp] theorem State.clearRq_ie (s : State) : s.clearRq.ie = s.ie := rfl
@[simp] theorem State.clearRq_noise (s : State) : s.clearRq.noise = s.noise := rfl
@[simp] theorem State.clearRq_mism (s : State) : s.clearRq.mism = s.mism := rfl
@[simp] theorem State.clearRq_ovf (s : State) : s.clearRq.ovf = s.ovf := rfl
@[simp] theorem State.clearRq_ovr (s : State) : s.clearRq.ovr = s.ovr := rfl
@[simp] theorem State.clearRq_err (s : State) : s.clearRq.err = s.err := rfl
@[simp] theorem State.clearRq_outv (s : State) : s.clearRq.outv = s.outv := rfl
@[simp] theorem State.clearRq_outLen (s : State) : s.clearRq.outLen = s.outLen := rfl
@[simp] theorem State.clearRq_outSchema (s : State) : s.clearRq.outSchema = s.outSchema := rfl
@[simp] theorem State.clearRq_outCkok (s : State) : s.clearRq.outCkok = s.outCkok := rfl
@[simp] theorem State.clearRq_obuf (s : State) : s.clearRq.obuf = s.obuf := rfl
@[simp] theorem State.clearRq_fsm (s : State) : s.clearRq.fsm = s.fsm := rfl
@[simp] theorem State.clearRq_pos (s : State) : s.clearRq.pos = s.pos := rfl
@[simp] theorem State.clearRq_slot (s : State) : s.clearRq.slot = s.slot := rfl
@[simp] theorem State.clearRq_rq (s : State) : s.clearRq.rq = false := rfl
@[simp] theorem State.clearRq_candr (s : State) : s.clearRq.candr = s.candr := rfl
@[simp] theorem State.clearRq_candn (s : State) : s.clearRq.candn = s.candn := rfl
@[simp] theorem State.clearRq_rbuf (s : State) : s.clearRq.rbuf = s.rbuf := rfl
@[simp] theorem State.clearRq_ckKind (s : State) : s.clearRq.ckKind = s.ckKind := rfl
@[simp] theorem State.clearRq_ckCnt (s : State) : s.clearRq.ckCnt = s.ckCnt := rfl
@[simp] theorem State.clearRq_ckAcc (s : State) : s.clearRq.ckAcc = s.ckAcc := rfl
@[simp] theorem State.clearRq_ckP1 (s : State) : s.clearRq.ckP1 = s.ckP1 := rfl
@[simp] theorem State.clearRq_ckP2 (s : State) : s.clearRq.ckP2 = s.ckP2 := rfl
@[simp] theorem State.clearRq_ckB1 (s : State) : s.clearRq.ckB1 = s.ckB1 := rfl
@[simp] theorem State.clearRq_ckB2 (s : State) : s.clearRq.ckB2 = s.ckB2 := rfl
@[simp] theorem State.clearRq_response (s : State) : s.clearRq.response = s.response := rfl
@[simp] theorem State.clearRq_port (s : State) : s.clearRq.port = s.port := rfl

/-! ### NSCHEMA, the slots and eligibility depend on the slot file and BUFMAX only -/

theorem State.nschema_congr {s t : State} (h : t.slots = s.slots) : t.nschema = s.nschema := by
  simp [State.nschema, h]

theorem State.slotAt_congr {s t : State} (h : t.slots = s.slots) (j : Nat) : t.slotAt j = s.slotAt j := by
  simp [State.slotAt, h]

theorem State.wellFormed_congr {s t : State} (h : t.slots = s.slots) (hb : t.bufmax = s.bufmax) (j : Nat) :
    t.wellFormed j = s.wellFormed j := by
  simp [State.wellFormed, State.slotAt_congr h, hb]

theorem State.eligible_congr {s t : State} (h : t.slots = s.slots) (hb : t.bufmax = s.bufmax) (j : Nat) :
    t.eligible j = s.eligible j := by
  simp [State.eligible, State.slotAt_congr h, hb]

@[simp] theorem State.resetEvent_nschema (s : State) : s.resetEvent.nschema = s.nschema := by
  simp [State.nschema, State.resetEvent, State.resetOf]

@[simp] theorem State.setSlot_nschema (s : State) (j : Nat) (x : Slot) : (s.setSlot j x).nschema = s.nschema := by
  simp [State.nschema, State.setSlot]

@[simp] theorem State.resetOf_nschema (n b : Nat) : (State.resetOf n b).nschema = n := by
  simp [State.nschema, State.resetOf]

end Sys2Proof.Machine
end

