-- ==== Sys2Proof/Laws/Operands.lean ====
section
/-! SUPPORT. What the operand forms give: bits of slot masks, the lowest slot of a set, the register at an address, and
reads of a slot after a slot was replaced. -/

namespace Sys2Proof.Machine

/-- A bit of `{s | P(s)}`. -/
@[simp] theorem slotSet_getLsbD (n : Nat) (p : Nat → Bool) (j : Nat) :
    (slotSet n p).getLsbD j = (decide (j < 8) && decide (j < n) && p j) := by
  unfold slotSet
  by_cases h : j < 8
  · simp [h]
  · simp [h, BitVec.getLsbD_ofFnLE]

/-- A mask of slots is empty exactly when no slot below `n` and below 8 is in it. -/
theorem slotSet_eq_zero_iff {n : Nat} {p : Nat → Bool} :
    slotSet n p = 0 ↔ ∀ j, j < n → j < 8 → p j = false := by
  constructor
  · intro h j hn h8
    have := congrArg (fun v => v.getLsbD j) h
    rw [show (0 : BitVec 8).getLsbD j = false by simp, slotSet_getLsbD] at this
    simpa [hn, h8] using this
  · intro h
    refine BitVec.eq_of_getLsbD_eq fun j hj => ?_
    by_cases hn : j < n
    · simp [h j hn hj]
    · simp [hn]

/-- A mask of slots has no bit at or above `n`. -/
theorem slotSet_toNat_lt (n : Nat) (p : Nat → Bool) : (slotSet n p).toNat < 2 ^ n := by
  refine Nat.lt_pow_two_of_testBit _ fun j hj => ?_
  rw [← BitVec.getLsbD, slotSet_getLsbD]
  simp [Nat.not_lt.2 hj]

theorem slotSet_congr {n : Nat} {p q : Nat → Bool} (h : ∀ j < n, p j = q j) : slotSet n p = slotSet n q := by
  refine BitVec.eq_of_getLsbD_eq fun j _ => ?_
  by_cases hn : j < n
  · simp [h j hn]
  · simp [hn]

/-- The lowest slot of a set is in it, and no lower one is. -/
theorem firstSlot_eq_some_iff {n : Nat} {p : Nat → Bool} {j : Nat} :
    firstSlot n p = some j ↔ j < n ∧ p j = true ∧ ∀ i < j, p i = false := by
  simp only [firstSlot, List.find?_range_eq_some, List.mem_range, Bool.not_eq_true']
  tauto

theorem firstSlot_eq_none_iff {n : Nat} {p : Nat → Bool} : firstSlot n p = none ↔ ∀ j < n, p j = false := by
  simp [firstSlot, List.find?_eq_none]

theorem firstSlot_isSome_iff {n : Nat} {p : Nat → Bool} : (firstSlot n p).isSome = true ↔ ∃ j < n, p j = true := by
  rw [Option.isSome_iff_ne_none, ne_eq, firstSlot_eq_none_iff]
  simp

theorem firstSlot_congr {n : Nat} {p q : Nat → Bool} (h : ∀ j < n, p j = q j) : firstSlot n p = firstSlot n q := by
  cases hq : firstSlot n q with
  | none => rw [firstSlot_eq_none_iff] at hq ⊢; intro j hj; rw [h j hj, hq j hj]
  | some k =>
    rw [firstSlot_eq_some_iff] at hq ⊢
    obtain ⟨hk, hp, hl⟩ := hq
    exact ⟨hk, by rw [h k hk, hp], fun i hi => by rw [h i (by omega), hl i hi]⟩

/-- `EN` and the length bound, read off eligibility. -/
theorem Slot.eligible_iff {b : Nat} {x : Slot} :
    x.eligible b = true ↔ x.en = true ∧ 1 ≤ x.rhlen ∧ x.rhlen ≤ 4 ∧ x.nhlen ≤ 4 ∧
      x.rhlen + ckLen x.kind ≤ x.explen.toNat ∧ x.explen.toNat ≤ b := by
  simp [Slot.eligible, Slot.wellFormed, and_assoc]

theorem Slot.wellFormed_iff {b : Nat} {x : Slot} :
    x.wellFormed b = true ↔ 1 ≤ x.rhlen ∧ x.rhlen ≤ 4 ∧ x.nhlen ≤ 4 ∧
      x.rhlen + ckLen x.kind ≤ x.explen.toNat ∧ x.explen.toNat ≤ b := by
  simp [Slot.wellFormed, and_assoc]

theorem Slot.reset_not_wellFormed (b : Nat) : Slot.reset.wellFormed b = false := by
  simp [Slot.wellFormed, Slot.rhlen, Slot.reset]

theorem ckLen_pos (k : Kind) : 1 ≤ ckLen k := by cases k <;> decide

/-- A slot that is well-formed exists. -/
theorem State.lt_nschema_of_wellFormed {s : State} {j : Nat} (h : s.wellFormed j = true) : j < s.nschema := by
  by_contra hj
  have : s.slotAt j = Slot.reset := by
    simp only [State.slotAt, State.nschema] at *
    rw [List.getD_eq_getElem?_getD, List.getElem?_eq_none (by omega)]; rfl
  simp [State.wellFormed, this, Slot.reset_not_wellFormed] at h

theorem State.wellFormed_of_eligible {s : State} {j : Nat} (h : s.eligible j = true) : s.wellFormed j = true := by
  simp only [State.eligible, Slot.eligible, Bool.and_eq_true] at h
  exact h.2

theorem State.lt_nschema_of_eligible {s : State} {j : Nat} (h : s.eligible j = true) : j < s.nschema :=
  State.lt_nschema_of_wellFormed (State.wellFormed_of_eligible h)

@[simp] theorem State.slotAt_setSlot (s : State) (j k : Nat) (x : Slot) :
    (s.setSlot j x).slotAt k = if j = k ∧ j < s.nschema then x else s.slotAt k := by
  simp only [State.slotAt, State.setSlot, State.nschema, List.getD_eq_getElem?_getD, List.getElem?_set]
  by_cases h : j = k
  · subst h
    by_cases hj : j < s.slots.length
    · simp [hj]
    · simp [hj]
  · simp [h]

/-- The registers of slot `j`. -/
theorem regAt_slot {n j k : Nat} {a : BitVec 8} (ha : a.toNat = 0x10 + 8 * j + k) (hk : k < 8) (hj : j < n) :
    regAt n a = slotReg j k := by
  have h1 : ¬ a.toNat < 0x10 := by omega
  have h2 : (a.toNat - 0x10) / 8 = j := by omega
  have h3 : (a.toNat - 0x10) % 8 = k := by omega
  simp only [regAt, h1, h2, h3, hj, if_true, if_false]

theorem globalReg_eq_none_iff {k : Nat} : globalReg k = none ↔ 0x0D ≤ k := by
  by_cases h : k < 0x0D
  · interval_cases k <;> simp [globalReg]
  · refine iff_of_true ?_ (by omega)
    unfold globalReg
    split <;> first | omega | rfl

theorem slotReg_eq_none_iff {j k : Nat} : slotReg j k = none ↔ 6 ≤ k := by
  by_cases h : k < 6
  · interval_cases k <;> simp [slotReg]
  · refine iff_of_true ?_ (by omega)
    unfold slotReg
    split <;> first | omega | rfl

/-- Which addresses are unmapped (10_state.md R24). -/
theorem regAt_eq_none_iff {n : Nat} {a : BitVec 8} :
    regAt n a = none ↔ (0x0D ≤ a.toNat ∧ a.toNat ≤ 0x0F) ∨
      (0x10 ≤ a.toNat ∧ (n ≤ (a.toNat - 0x10) / 8 ∨ 6 ≤ (a.toNat - 0x10) % 8)) := by
  unfold regAt
  split
  · rw [globalReg_eq_none_iff]; omega
  · split
    · rw [slotReg_eq_none_iff]; omega
    · simp only [true_iff]; omega

/-- The register at an address is a slot's only if the slot exists. -/
theorem regAt_slot_lt {n : Nat} {a : BitVec 8} {r : Reg} (h : regAt n a = some r) (j : Nat)
    (hr : r = .scfg j ∨ r = .explen j ∨ r = .rhdr01 j ∨ r = .rhdr23 j ∨ r = .nhdr01 j ∨ r = .nhdr23 j) : j < n := by
  unfold regAt at h
  split at h
  · generalize a.toNat = k at h
    unfold globalReg at h
    split at h <;> simp_all <;> subst h <;> simp at hr
  · split at h
    · rename_i hj
      generalize (a.toNat - 0x10) / 8 = i at *
      unfold slotReg at h
      split at h <;> simp_all <;> subst h <;> simp at hr <;> subst hr <;> exact hj
    · cases h

end Sys2Proof.Machine
end

