-- ==== Sys2Proof/Laws/Reassembler.lean ====
section
/-! SUPPORT. For each procedure of PUSH (41_reassembler.md R122 to R128) one lemma that says everything it can do, and
what none of them changes. -/

namespace Sys2Proof.Machine

/-- A byte is written into RBUF exactly when its index exists, and nothing else changes. -/
theorem State.writeRbuf_eq_ok_iff {s t : State} {k : Nat} {b : Byte} :
    s.writeRbuf k b = .ok t ↔ k < s.bufmax ∧ t = { s with rbuf := s.rbuf.write k b } := by
  unfold State.writeRbuf
  split <;> simp_all [eq_comm]

theorem State.writeRbuf_of_lt {s : State} {k : Nat} (h : k < s.bufmax) (b : Byte) :
    s.writeRbuf k b = .ok { s with rbuf := s.rbuf.write k b } :=
  State.writeRbuf_eq_ok_iff.2 ⟨h, rfl⟩

/-- CN of HDRBYTE, slot by slot. -/
theorem State.noiseMatches_iff {s : State} {b : Byte} {j : Nat} :
    (s.noiseMatches b).getLsbD j = true ↔ j < 8 ∧ s.candn.getLsbD j = true ∧ s.eligible j = true ∧
      s.pos.toNat < (s.slotAt j).nhlen ∧ (s.slotAt j).nh s.pos.toNat = b := by
  simp only [State.noiseMatches, slotSet_getLsbD, Bool.and_eq_true, decide_eq_true_eq, beq_iff_eq]
  constructor
  · rintro ⟨⟨h8, -⟩, ⟨⟨hc, he⟩, hk⟩, hb⟩
    exact ⟨h8, hc, he, hk, hb⟩
  · rintro ⟨h8, hc, he, hk, hb⟩
    exact ⟨⟨h8, State.lt_nschema_of_eligible he⟩, ⟨⟨hc, he⟩, hk⟩, hb⟩

/-- CR of HDRBYTE, slot by slot. -/
theorem State.responseMatches_iff {s : State} {b : Byte} {j : Nat} :
    (s.responseMatches b).getLsbD j = true ↔ j < 8 ∧ s.candr.getLsbD j = true ∧ s.eligible j = true ∧
      s.pos.toNat < (s.slotAt j).rhlen ∧ (s.slotAt j).rh s.pos.toNat = b := by
  simp only [State.responseMatches, slotSet_getLsbD, Bool.and_eq_true, decide_eq_true_eq, beq_iff_eq]
  constructor
  · rintro ⟨⟨h8, -⟩, ⟨⟨hc, he⟩, hk⟩, hb⟩
    exact ⟨h8, hc, he, hk, hb⟩
  · rintro ⟨h8, hc, he, hk, hb⟩
    exact ⟨⟨h8, State.lt_nschema_of_eligible he⟩, ⟨⟨hc, he⟩, hk⟩, hb⟩

/-- A noise header is complete: some slot of CN has NHLEN = k+1. -/
theorem State.noiseComplete_isSome_iff {s : State} {b : Byte} :
    (s.noiseComplete b).isSome = true ↔
      ∃ j, (s.noiseMatches b).getLsbD j = true ∧ (s.slotAt j).nhlen = s.pos.toNat + 1 := by
  simp only [State.noiseComplete, firstSlot_isSome_iff, Bool.and_eq_true, beq_iff_eq]
  constructor
  · rintro ⟨j, -, h⟩; exact ⟨j, h⟩
  · rintro ⟨j, h, hl⟩
    exact ⟨j, State.lt_nschema_of_eligible (State.noiseMatches_iff.1 h).2.2.1, h, hl⟩

/-- The slot a completed response header selects: in CR, RHLEN = k+1, and no lower such slot. -/
theorem State.responseComplete_eq_some_iff {s : State} {b : Byte} {j : Nat} :
    s.responseComplete b = some j ↔
      (s.responseMatches b).getLsbD j = true ∧ (s.slotAt j).rhlen = s.pos.toNat + 1 ∧
        ∀ i < j, (s.responseMatches b).getLsbD i = true → (s.slotAt i).rhlen ≠ s.pos.toNat + 1 := by
  simp only [State.responseComplete, firstSlot_eq_some_iff, Bool.and_eq_true, beq_iff_eq, Bool.and_eq_false_iff,
    beq_eq_false_iff_ne]
  constructor
  · rintro ⟨-, ⟨h, hl⟩, hm⟩
    exact ⟨h, hl, fun i hi hr => by rcases hm i hi with h' | h' <;> simp_all⟩
  · rintro ⟨h, hl, hm⟩
    refine ⟨State.lt_nschema_of_eligible (State.responseMatches_iff.1 h).2.2.1, ⟨h, hl⟩, fun i hi => ?_⟩
    by_cases hr : (s.responseMatches b).getLsbD i = true
    · exact .inr (hm i hi hr)
    · exact .inl (by simpa using hr)

theorem State.responseComplete_eq_none_iff {s : State} {b : Byte} :
    s.responseComplete b = none ↔
      ∀ j, (s.responseMatches b).getLsbD j = true → (s.slotAt j).rhlen ≠ s.pos.toNat + 1 := by
  simp only [State.responseComplete, firstSlot_eq_none_iff, Bool.and_eq_false_iff, beq_eq_false_iff_ne]
  constructor
  · intro h j hj
    rcases h j (State.lt_nschema_of_eligible (State.responseMatches_iff.1 hj).2.2.1) with h' | h' <;> simp_all
  · intro h j _
    by_cases hr : (s.responseMatches b).getLsbD j = true
    · exact .inr (h j hr)
    · exact .inl (by simpa using hr)

/-- A mask is empty exactly when no bit of it is set. -/
theorem mask_eq_zero_iff {m : BitVec 8} : m = 0 ↔ ∀ j, m.getLsbD j = false := by
  constructor
  · rintro rfl j; simp
  · intro h; exact BitVec.eq_of_getLsbD_eq fun j _ => by rw [h j]; simp

/-- The branch HDRBYTE takes is the noise one exactly when a noise header is complete. -/
theorem State.hdrResult_eq_noise_iff {s : State} {b : Byte} :
    s.hdrResult b = .noise ↔ (s.noiseComplete b).isSome = true := by
  unfold State.hdrResult
  split
  · simp_all
  · split
    · simp_all
    · split <;> simp_all

/-- It is the mismatch one exactly when no candidate is left. -/
theorem State.hdrResult_eq_mismatch_iff {s : State} {b : Byte} :
    s.hdrResult b = .mismatch ↔ s.noiseMatches b = 0 ∧ s.responseMatches b = 0 := by
  unfold State.hdrResult
  split
  · rename_i h
    obtain ⟨j, hj, -⟩ := State.noiseComplete_isSome_iff.1 h
    simp only [reduceCtorEq, false_iff]
    rintro ⟨h0, -⟩
    rw [h0] at hj; simp at hj
  · split
    · rename_i h
      obtain ⟨j, hj⟩ := Option.isSome_iff_exists.1 h
      have := (State.responseComplete_eq_some_iff.1 hj).1
      simp only [reduceCtorEq, false_iff]
      rintro ⟨-, h0⟩
      rw [h0] at this; simp at this
    · split <;> simp_all

/-- A candidate that still matches byte k is eligible, so k < 4. -/
theorem State.pos_lt_four_of_advance {s : State} {b : Byte} (h : s.hdrResult b = .advance) : s.pos.toNat < 4 := by
  have hne : ¬ (s.noiseMatches b = 0 ∧ s.responseMatches b = 0) := fun hz => by
    rw [State.hdrResult_eq_mismatch_iff.2 hz] at h; cases h
  rw [mask_eq_zero_iff, mask_eq_zero_iff, not_and_or] at hne
  rcases hne with hne | hne
  · obtain ⟨j, hj⟩ := not_forall.1 hne
    obtain ⟨-, -, he, hk, -⟩ := State.noiseMatches_iff.1 (by simpa using hj)
    have := (Slot.eligible_iff.1 he).2.2.2.1
    omega
  · obtain ⟨j, hj⟩ := not_forall.1 hne
    obtain ⟨-, -, he, hk, -⟩ := State.responseMatches_iff.1 (by simpa using hj)
    have := (Slot.eligible_iff.1 he).2.2.1
    omega

/-- A byte is appended exactly when its index exists. -/
theorem State.append_eq_ok_iff {s t : State} {b : Byte} :
    s.append b = .ok t ↔
      s.pos.toNat < s.bufmax ∧ t = { s with rbuf := s.rbuf.write s.pos.toNat b, pos := s.pos + 1 } := by
  unfold State.append State.writeRbuf
  by_cases h : s.pos.toNat < s.bufmax <;> simp only [h, if_true, if_false] <;> simp [eq_comm]

/-- What the advancing branches of HDRBYTE can do. -/
theorem State.hdrAdvance_eq_ok_iff {s t : State} {b : Byte} :
    s.hdrAdvance b = .ok t ↔ ∃ u, s.append b = .ok u ∧
      ((∃ j, s.responseComplete b = some j ∧ t = u.toAccum j) ∨
        (s.responseComplete b = none ∧ t = u.keepCandidates (s.noiseMatches b) (s.responseMatches b))) := by
  unfold State.hdrAdvance
  cases s.append b with
  | error f => simp
  | ok u => cases s.responseComplete b <;> simp [eq_comm]

/-- What START can do. -/
theorem State.start_eq_ok_iff {s t : State} {b : Byte} :
    s.start b = .ok t ↔
      (s.seed.hdrResult b = .noise ∧ t = s.dropNoise) ∨
      (s.seed.hdrResult b = .mismatch ∧ t = s.dropMismatch) ∨
      (s.seed.hdrResult b = .advance ∧ s.seed.hdrAdvance b = .ok t) := by
  unfold State.start
  rw [show s.seed.dropNoise = s.dropNoise from rfl, show s.seed.dropMismatch = s.dropMismatch from rfl]
  cases s.seed.hdrResult b <;> simp [eq_comm]

/-- What HDRBYTE can do. -/
theorem State.hdrByte_eq_ok_iff {s t : State} {b : Byte} {sof : Bool} :
    s.hdrByte b sof = .ok t ↔
      (s.hdrResult b = .noise ∧ t = s.dropNoise) ∨
      (s.hdrResult b = .mismatch ∧ (sof = false ∨ s.pos.toNat = 0) ∧ t = s.dropMismatch) ∨
      (s.hdrResult b = .mismatch ∧ sof = true ∧ 0 < s.pos.toNat ∧ s.dropMismatch.start b = .ok t) ∨
      (s.hdrResult b = .advance ∧ s.hdrAdvance b = .ok t) := by
  unfold State.hdrByte
  cases s.hdrResult b with
  | noise => simp [eq_comm]
  | advance => simp
  | mismatch =>
    rcases Nat.eq_zero_or_pos s.pos.toNat with h | h
    · simp [h, eq_comm]
    · cases sof <;> simp [h, h.ne', eq_comm]

/-- What EMIT does with the output free, field by field that changes. -/
theorem State.emit_of_free {s : State} (h : s.outv = false) (j len : Nat) :
    s.emit j len =
      { s with obuf := s.rbuf.copy s.obuf len, outLen := BitVec.ofNat 16 len, outSchema := BitVec.ofNat 3 j,
               outCkok := validate (s.slotAt j).kind (s.rbuf.bytes len), outv := true } := by
  simp [State.emit, h]

/-- What EMIT does with a frame held: the new frame is lost. -/
theorem State.emit_of_held {s : State} (h : s.outv = true) (j len : Nat) : s.emit j len = { s with ovr := true } := by
  simp [State.emit, h]

/-- What ACCBYTE can do. -/
theorem State.accByte_eq_ok_iff {s t : State} {b : Byte} {sof : Bool} :
    s.accByte b sof = .ok t ↔
      ((s.wellFormed s.slot.toNat = false ∨ (s.slotAt s.slot.toNat).explen.toNat ≤ s.pos.toNat) ∧
        ((sof = true ∧ s.dropOverflow.start b = .ok t) ∨ (sof = false ∧ t = s.dropOverflow))) ∨
      (s.wellFormed s.slot.toNat = true ∧ s.pos.toNat < (s.slotAt s.slot.toNat).explen.toNat ∧
        ∃ u, s.append b = .ok u ∧
          ((s.pos.toNat + 1 = (s.slotAt s.slot.toNat).explen.toNat ∧
              t = u.complete s.slot.toNat (s.slotAt s.slot.toNat).explen.toNat) ∨
            (s.pos.toNat + 1 ≠ (s.slotAt s.slot.toNat).explen.toNat ∧ t = u))) := by
  have hsplit : ¬ (s.wellFormed s.slot.toNat = false ∨ (s.slotAt s.slot.toNat).explen.toNat ≤ s.pos.toNat) ↔
      s.wellFormed s.slot.toNat = true ∧ s.pos.toNat < (s.slotAt s.slot.toNat).explen.toNat := by
    rw [not_or, Bool.not_eq_false, Nat.not_le]
  rw [← and_assoc, ← hsplit]
  unfold State.accByte
  simp only
  split
  · rename_i hc
    simp only [hc, not_true_eq_false, false_and, or_false, true_and]
    cases sof <;> simp [eq_comm]
  · rename_i hc
    simp only [hc, not_false_eq_true, false_and, false_or, true_and]
    cases s.append b with
    | error f => simp
    | ok u =>
      by_cases he : s.pos.toNat + 1 = (s.slotAt s.slot.toNat).explen.toNat
      · simp only [he, if_true, ne_eq, not_true_eq_false, false_and, or_false, true_and]
        simp [eq_comm]
      · simp only [he, if_false, ne_eq, not_false_eq_true, false_and, false_or, true_and]
        simp [eq_comm]

/-- What the byte procedures of PUSH can do, by the state of the FSM. -/
theorem State.pushByte_eq_ok_iff {s t : State} {sof : Bool} {b : Byte} :
    s.pushByte sof b = .ok t ↔
      (s.fsm = .idle ∧ sof = false ∧ s.rq = false ∧ t = s.clearRq) ∨
      (s.fsm = .idle ∧ (sof = true ∨ s.rq = true) ∧ s.clearRq.start b = .ok t) ∨
      (s.fsm = .hdr ∧ s.clearRq.hdrByte b (sof || s.rq) = .ok t) ∨
      (s.fsm = .accum ∧ s.clearRq.accByte b (sof || s.rq) = .ok t) := by
  unfold State.pushByte
  cases s.fsm with
  | idle => cases sof <;> cases s.rq <;> simp [eq_comm]
  | hdr => simp
  | accum => simp

/-- PUSH answers a next state exactly when its byte procedures do, and then with the response (OK, 0). -/
theorem execPush_eq_next_iff {s t : State} {sof : Bool} {b : Byte} :
    execPush sof b s = .next t ↔ ∃ u, s.pushByte sof b = .ok u ∧ t = u.respond .ok 0x0000 := by
  unfold execPush
  cases s.pushByte sof b <;> simp [eq_comm]

/-! ### What no byte procedure changes -/

/-- The part of the state that the byte procedures never change. -/
structure State.SameHostSide (s t : State) : Prop where
  bufmax : t.bufmax = s.bufmax
  slots : t.slots = s.slots
  ie : t.ie = s.ie
  err : t.err = s.err
  ckKind : t.ckKind = s.ckKind
  ckCnt : t.ckCnt = s.ckCnt
  ckAcc : t.ckAcc = s.ckAcc
  ckP1 : t.ckP1 = s.ckP1
  ckP2 : t.ckP2 = s.ckP2
  ckB1 : t.ckB1 = s.ckB1
  ckB2 : t.ckB2 = s.ckB2
  port : t.port = s.port

/-- The sticky bits a byte procedure can only set. -/
structure State.StickyLe (s t : State) : Prop where
  noise : s.noise = true → t.noise = true
  mism : s.mism = true → t.mism = true
  ovf : s.ovf = true → t.ovf = true
  ovr : s.ovr = true → t.ovr = true

theorem State.SameHostSide.refl (s : State) : s.SameHostSide s :=
  ⟨rfl, rfl, rfl, rfl, rfl, rfl, rfl, rfl, rfl, rfl, rfl, rfl⟩

theorem State.SameHostSide.trans {s t u : State} (h : s.SameHostSide t) (g : t.SameHostSide u) : s.SameHostSide u :=
  ⟨g.1.trans h.1, g.2.trans h.2, g.3.trans h.3, g.4.trans h.4, g.5.trans h.5, g.6.trans h.6, g.7.trans h.7,
    g.8.trans h.8, g.9.trans h.9, g.10.trans h.10, g.11.trans h.11, g.12.trans h.12⟩

theorem State.StickyLe.refl (s : State) : s.StickyLe s := ⟨id, id, id, id⟩

theorem State.StickyLe.trans {s t u : State} (h : s.StickyLe t) (g : t.StickyLe u) : s.StickyLe u :=
  ⟨g.1 ∘ h.1, g.2 ∘ h.2, g.3 ∘ h.3, g.4 ∘ h.4⟩

/-- Both frames at once. -/
abbrev State.PushFrame (s t : State) : Prop := s.SameHostSide t ∧ s.StickyLe t

theorem State.PushFrame.trans {s t u : State} (h : s.PushFrame t) (g : t.PushFrame u) : s.PushFrame u :=
  ⟨h.1.trans g.1, h.2.trans g.2⟩

theorem State.seed_frame (s : State) : s.PushFrame s.seed := ⟨by constructor <;> rfl, by constructor <;> exact id⟩

theorem State.clearRq_frame (s : State) : s.PushFrame s.clearRq := ⟨by constructor <;> rfl, by constructor <;> exact id⟩

theorem State.dropNoise_frame (s : State) : s.PushFrame s.dropNoise := ⟨by constructor <;> rfl, ⟨fun _ => rfl, id, id, id⟩⟩

theorem State.dropMismatch_frame (s : State) : s.PushFrame s.dropMismatch := ⟨by constructor <;> rfl, ⟨id, fun _ => rfl, id, id⟩⟩

theorem State.dropOverflow_frame (s : State) : s.PushFrame s.dropOverflow := ⟨by constructor <;> rfl, ⟨id, id, fun _ => rfl, id⟩⟩

theorem State.append_frame {s t : State} {b : Byte} (h : s.append b = .ok t) : s.PushFrame t := by
  obtain ⟨-, rfl⟩ := State.append_eq_ok_iff.1 h
  exact ⟨by constructor <;> rfl, by constructor <;> exact id⟩

theorem State.emit_frame (s : State) (j len : Nat) : s.PushFrame (s.emit j len) := by
  cases h : s.outv
  · rw [State.emit_of_free h]
    exact ⟨by constructor <;> rfl, by constructor <;> exact id⟩
  · rw [State.emit_of_held h]
    exact ⟨by constructor <;> rfl, ⟨id, id, id, fun _ => rfl⟩⟩

theorem State.complete_frame (s : State) (j len : Nat) : s.PushFrame (s.complete j len) :=
  (s.emit_frame j len).trans ⟨by constructor <;> rfl, by constructor <;> exact id⟩

theorem State.hdrAdvance_frame {s t : State} {b : Byte} (h : s.hdrAdvance b = .ok t) : s.PushFrame t := by
  obtain ⟨u, hu, ⟨j, -, rfl⟩ | ⟨-, rfl⟩⟩ := State.hdrAdvance_eq_ok_iff.1 h <;>
    exact (State.append_frame hu).trans ⟨by constructor <;> rfl, by constructor <;> exact id⟩

theorem State.start_frame {s t : State} {b : Byte} (h : s.start b = .ok t) : s.PushFrame t := by
  obtain ⟨-, rfl⟩ | ⟨-, rfl⟩ | ⟨-, h⟩ := State.start_eq_ok_iff.1 h
  · exact s.dropNoise_frame
  · exact s.dropMismatch_frame
  · exact s.seed_frame.trans (State.hdrAdvance_frame h)

theorem State.hdrByte_frame {s t : State} {b : Byte} {sof : Bool} (h : s.hdrByte b sof = .ok t) : s.PushFrame t := by
  obtain ⟨-, rfl⟩ | ⟨-, -, rfl⟩ | ⟨-, -, -, h⟩ | ⟨-, h⟩ := State.hdrByte_eq_ok_iff.1 h
  · exact s.dropNoise_frame
  · exact s.dropMismatch_frame
  · exact s.dropMismatch_frame.trans (State.start_frame h)
  · exact State.hdrAdvance_frame h

theorem State.accByte_frame {s t : State} {b : Byte} {sof : Bool} (h : s.accByte b sof = .ok t) : s.PushFrame t := by
  obtain ⟨-, ⟨-, h⟩ | ⟨-, rfl⟩⟩ | ⟨-, -, u, hu, ⟨-, rfl⟩ | ⟨-, rfl⟩⟩ := State.accByte_eq_ok_iff.1 h
  · exact s.dropOverflow_frame.trans (State.start_frame h)
  · exact s.dropOverflow_frame
  · exact (State.append_frame hu).trans (State.complete_frame _ _ _)
  · exact State.append_frame hu

/-- The byte procedures change the host's side of the state nowhere and clear no sticky bit. -/
theorem State.pushByte_frame {s t : State} {sof : Bool} {b : Byte} (h : s.pushByte sof b = .ok t) : s.PushFrame t := by
  obtain ⟨-, -, -, rfl⟩ | ⟨-, -, h⟩ | ⟨-, h⟩ | ⟨-, h⟩ := State.pushByte_eq_ok_iff.1 h
  · exact s.clearRq_frame
  · exact s.clearRq_frame.trans (State.start_frame h)
  · exact s.clearRq_frame.trans (State.hdrByte_frame h)
  · exact s.clearRq_frame.trans (State.accByte_frame h)

end Sys2Proof.Machine
end

