-- ==== Sys2Proof/Laws/Exec.lean ====
section
/-! SUPPORT. What each meaning can do when it answers a next state, what the block does with one word and one input, and
the bits of the computed registers. -/

namespace Sys2Proof.Machine

theorem State.readObuf_eq_ok_iff {s : State} {i : Nat} {b : Byte} :
    s.readObuf i = .ok b ↔ i < s.bufmax ∧ b = s.obuf.read i := by
  unfold State.readObuf
  split <;> simp_all [eq_comm]

/-- RDREG answers BAD_ADDR or the register. -/
theorem execRdreg_eq_next_iff {s t : State} {a : BitVec 8} :
    execRdreg a s = .next t ↔
      (regAt s.nschema a = none ∧ t = s.raise .badAddr) ∨
      (∃ r, regAt s.nschema a = some r ∧ t = s.respond .ok (s.readReg r)) := by
  unfold execRdreg
  cases regAt s.nschema a <;> simp [eq_comm]

/-- WRREG answers BAD_ADDR, READ_ONLY or the write. -/
theorem execWrreg_eq_next_iff {s t : State} {a : BitVec 8} {d : Word} :
    execWrreg a d s = .next t ↔
      (regAt s.nschema a = none ∧ t = s.raise .badAddr) ∨
      (∃ r, regAt s.nschema a = some r ∧ r.readOnly = true ∧ t = s.raise .readOnly) ∨
      (∃ r, regAt s.nschema a = some r ∧ r.readOnly = false ∧ t = (s.writeReg d r).respond .ok 0x0000) := by
  unfold execWrreg
  cases regAt s.nschema a with
  | none => simp only [Host.Outcome.next.injEq, reduceCtorEq, true_and, false_and, exists_false, or_false]; exact eq_comm
  | some r =>
    simp only [reduceCtorEq, false_and, false_or, Option.some.injEq, exists_eq_left']
    cases r.readOnly
    · simp only [Bool.false_eq_true, if_false, Host.Outcome.next.injEq, false_and, true_and, false_or]; exact eq_comm
    · simp only [if_true, Host.Outcome.next.injEq, reduceCtorEq, false_and, true_and, or_false]; exact eq_comm

/-- FRREAD answers NO_FRAME, RANGE or the byte. -/
theorem execFrread_eq_next_iff {s t : State} {i : Word} :
    execFrread i s = .next t ↔
      (s.outv = false ∧ t = s.raise .noFrame) ∨
      (s.outv = true ∧ s.outLen.toNat ≤ i.toNat ∧ t = s.raise .range) ∨
      (s.outv = true ∧ i.toNat < s.outLen.toNat ∧ i.toNat < s.bufmax ∧
        t = s.respond .ok ((s.obuf.read i.toNat).zeroExtend 16)) := by
  unfold execFrread
  cases hv : s.outv with
  | false => simp [eq_comm]
  | true =>
    by_cases hl : s.outLen.toNat ≤ i.toNat
    · simp [hl, Nat.not_lt.2 hl, eq_comm]
    · by_cases hb : i.toNat < s.bufmax
      · simp [State.readObuf, hl, hb, Nat.lt_of_not_le hl, eq_comm]
      · simp [State.readObuf, hl, hb]

/-- RELEASE answers NO_FRAME or frees the output. -/
theorem execRelease_eq_next_iff {s t : State} :
    execRelease s = .next t ↔
      (s.outv = false ∧ t = s.raise .noFrame) ∨
      (s.outv = true ∧
        t = State.respond { s with outv := false, outLen := 0, outSchema := 0, outCkok := false } .ok 0x0000) := by
  unfold execRelease
  cases s.outv <;> simp [eq_comm]

/-- No meaning refuses. -/
theorem exec_ne_refused (i : Instr) (s : State) (r : Refusal) : exec i s ≠ .refused r := by
  cases i with
  | nop => simp [exec, execNop]
  | push sof b => simp only [exec, execPush]; split <;> simp
  | wrreg a d =>
    simp only [exec, execWrreg]
    split
    · simp
    · split <;> simp
  | rdreg a => simp only [exec, execRdreg]; split <;> simp
  | cancel => simp [exec, execCancel]
  | release => simp only [exec, execRelease]; split <;> simp
  | ckinit k => simp [exec, execCkinit]
  | ckfeed b => simp [exec, execCkfeed]
  | frread i =>
    simp only [exec, execFrread]
    split
    · simp
    · split
      · simp
      · split <;> simp
  | sreset => simp [exec, execSreset]

/-- What the block does with one word. -/
theorem performWord_of_ok {w : OpWord} {i : Instr} (h : decode w = .ok i) (s : State) : performWord w s = exec i s := by
  simp [performWord, h]

theorem performWord_of_error {w : OpWord} {e : DecodeError} (h : decode w = .error e) (s : State) :
    performWord w s = .next (s.raise .illegal) := by
  simp [performWord, h]

/-- What a step does, by what the port holds. -/
theorem step_of_port_nil {s : State} (h : s.port = []) : step s = .next s := by
  simp [step, accept, h]

theorem step_of_port_reset {s : State} {rest : List Input} (h : s.port = .reset :: rest) :
    step s = .next ({ s with port := rest } : State).resetEvent := by
  simp [step, accept, h]

theorem step_of_port_op {s : State} {w : OpWord} {rest : List Input} (h : s.port = .op w :: rest) :
    step s = performWord w { s with port := rest } := by
  simp [step, accept, h]

/-! ### The computed registers, bit by bit -/

theorem statusWord_toNat (s : State) :
    s.statusWord.toNat = s.outv.toNat + 2 * s.outck.toNat + 4 * s.busy.toNat + 256 * s.noise.toNat +
      512 * s.mism.toNat + 1024 * s.ovf.toNat + 2048 * s.ovr.toNat + 4096 * s.err.toNat := by
  unfold State.statusWord
  generalize s.outv = a, s.outck = b, s.busy = c, s.noise = d, s.mism = e, s.ovf = f, s.ovr = g, s.err = h
  revert a b c d e f g h
  decide

/-- STATUS bit by bit (10_state.md R35). -/
theorem statusWord_getLsbD (s : State) {k : Nat} (hk : k < 16) :
    s.statusWord.getLsbD k =
      [s.outv, s.outck, s.busy, false, false, false, false, false, s.noise, s.mism, s.ovf, s.ovr, s.err].getD k false := by
  unfold State.statusWord
  generalize s.outv = a, s.outck = b, s.busy = c, s.noise = d, s.mism = e, s.ovf = f, s.ovr = g, s.err = h
  revert a b c d e f g h
  interval_cases k <;> decide

/-- The registers below 0x10 are those of `globalReg`, in every instance. -/
theorem regAt_ofNat (n : Nat) {k : Nat} (h : k < 0x10) : regAt n (BitVec.ofNat 8 k) = globalReg k := by
  have h1 : k % 256 = k := by omega
  simp [regAt, h1, h]

/-- The sequence of operations runs its first one, then the others. -/
theorem execAll_cons_of_next {i : Instr} {is : List Instr} {s t : State} (h : exec i s = .next t) :
    execAll (i :: is) s = execAll is t := by
  simp [execAll, h]

theorem execAll_append_of_next {is js : List Instr} {s t : State} (h : execAll is s = .next t) :
    execAll (is ++ js) s = execAll js t := by
  induction is generalizing s with
  | nil => simp only [execAll, Host.Outcome.next.injEq] at h; simp [h]
  | cons i is ih =>
    simp only [List.cons_append, execAll] at h ⊢
    cases hi : exec i s with
    | next u => rw [hi] at h; exact ih h
    | fault f => rw [hi] at h; cases h
    | refused r => rw [hi] at h; cases h

end Sys2Proof.Machine
end

