-- ==== Sys2Proof/Laws/PerInstr.lean ====
section
/-! SUPPORT. One lemma per operation: its encoding has the operation's number in the OP field, the column "OP" of
30_encoding.md R82. -/

namespace Sys2Proof

/-- The OP value of an operation (R82). -/
def opNumber : Instr → Nat
  | .nop => 0
  | .push _ _ => 1
  | .wrreg _ _ => 2
  | .rdreg _ => 3
  | .cancel => 4
  | .release => 5
  | .ckinit _ => 6
  | .ckfeed _ => 7
  | .frread _ => 8
  | .sreset => 9

end Sys2Proof

namespace Sys2Proof.Laws.OpFieldOfEncode

/-- The OP field of the encoding is the operation's number. -/
def Statement (i : Instr) : Prop := opField (encode i) = BitVec.ofNat 4 (opNumber i)

theorem nop : Statement .nop := by unfold Statement; decide

theorem push (sof : Bool) (byte : Byte) : Statement (.push sof byte) := by
  refine BitVec.eq_of_getLsbD_eq fun k hk => ?_
  simp only [opField, encode, opNumber]
  interval_cases k <;> simp

theorem wrreg (addr : BitVec 8) (data : Word) : Statement (.wrreg addr data) := by
  refine BitVec.eq_of_getLsbD_eq fun k hk => ?_
  simp only [opField, encode, opNumber]
  interval_cases k <;> simp

theorem rdreg (addr : BitVec 8) : Statement (.rdreg addr) := by
  refine BitVec.eq_of_getLsbD_eq fun k hk => ?_
  simp only [opField, encode, opNumber]
  interval_cases k <;> simp

theorem cancel : Statement .cancel := by unfold Statement; decide

theorem release : Statement .release := by unfold Statement; decide

theorem ckinit (kind : Kind) : Statement (.ckinit kind) := by unfold Statement; cases kind <;> decide

theorem ckfeed (byte : Byte) : Statement (.ckfeed byte) := by
  refine BitVec.eq_of_getLsbD_eq fun k hk => ?_
  simp only [opField, encode, opNumber]
  interval_cases k <;> simp

theorem frread (idx : Word) : Statement (.frread idx) := by
  refine BitVec.eq_of_getLsbD_eq fun k hk => ?_
  simp only [opField, encode, opNumber]
  interval_cases k <;> simp

theorem sreset : Statement .sreset := by unfold Statement; decide

end Sys2Proof.Laws.OpFieldOfEncode
end

