-- ==== Sys2Proof/Tests/Slice0.lean ====
section
/-! SUPPORT. The model's own tests: the checks that refuse ill-formed terms, words written out field by field, one-step
tests with the values of 95_test_vectors.md and of the rules' own examples, and for every statement with hypotheses a
state and operands that meet them together. -/

namespace Sys2Proof.Tests

open Sys2Proof Sys2Proof.Machine

/-! ### The checks refuse ill-formed terms -/

/-- A reserved bit in each of the ten rows (30_encoding.md R83). -/
theorem test_wordWf_refuses_reserved_bits :
    [0x00000001, 0x10000200, 0x20010000, 0x30000001, 0x40000001, 0x50000001, 0x60000002, 0x70000100, 0x80010000,
      0x90000001].map wordWf = List.replicate 10 false := by decide

/-- Every reserved OP (R85). -/
theorem test_wordWf_refuses_reserved_ops :
    [0xA0000000, 0xB0000000, 0xC0000000, 0xD0000000, 0xE0000000, 0xF0000000].map wordWf = List.replicate 6 false := by
  decide

/-- The largest word of each row is well-formed. -/
theorem test_wordWf_accepts :
    [0x00000000, 0x100001FF, 0x2FF0FFFF, 0x3FF00000, 0x40000000, 0x50000000, 0x60000001, 0x700000FF, 0x8000FFFF,
      0x90000000].map wordWf = List.replicate 10 true := by decide

/-- Each clause of well-formedness of a slot refuses (10_state.md R33): RHLEN 0 and 5, NHLEN 5, EXPLEN below
RHLEN + CKLEN and above BUFMAX; the last slot meets them all. -/
theorem test_slot_checks_refuse :
    [⟨0x0001, 4, 0, 0, 0, 0⟩, ⟨0x0015, 8, 0, 0, 0, 0⟩, ⟨0x00A5, 8, 0, 0, 0, 0⟩, ⟨0x0007, 2, 0, 0, 0, 0⟩,
      ⟨0x0005, 17, 0, 0, 0, 0⟩, ⟨0x0005, 16, 0, 0, 0, 0⟩].map (Slot.wellFormed 16) =
      [false, false, false, false, false, true] := by decide

/-- NSCHEMA and BUFMAX just outside their ranges (00_scope.md R7, R8). -/
theorem test_config_check_refuses :
    ¬ Config.Legal 0 256 ∧ ¬ Config.Legal 9 256 ∧ ¬ Config.Legal 2 5 ∧ ¬ Config.Legal 2 4097 := by decide

/-- A buffer out of order, with a repeat, or with an entry of the unlisted value is not in the canonical form. -/
theorem test_memory_check_refuses :
    ¬ Memory.wf [(1, 1), (0, 1)] ∧ ¬ Memory.wf [(0, 1), (0, 2)] ∧ ¬ Memory.wf [(0, 0)] := by decide

/-! ### Decoding: words written out from the fields of 30_encoding.md R81 and R82 -/

theorem test_decode_nop : decode (0x0#4 ++ 0#28) = .ok .nop := by decide
theorem test_decode_push : decode (0x1#4 ++ 0#19 ++ 1#1 ++ 0xA5#8) = .ok (.push true 0xA5) := by decide
theorem test_decode_wrreg : decode (0x2#4 ++ 0x11#8 ++ 0#4 ++ 0x0014#16) = .ok (.wrreg 0x11 0x0014) := by decide
theorem test_decode_rdreg : decode (0x3#4 ++ 0x0E#8 ++ 0#20) = .ok (.rdreg 0x0E) := by decide
theorem test_decode_cancel : decode (0x4#4 ++ 0#28) = .ok .cancel := by decide
theorem test_decode_release : decode (0x5#4 ++ 0#28) = .ok .release := by decide
theorem test_decode_ckinit : decode (0x6#4 ++ 0#27 ++ 1#1) = .ok (.ckinit .crc) := by decide
theorem test_decode_ckfeed : decode (0x7#4 ++ 0#20 ++ 0x81#8) = .ok (.ckfeed 0x81) := by decide
theorem test_decode_frread : decode (0x8#4 ++ 0#12 ++ 0x8003#16) = .ok (.frread 0x8003) := by decide
theorem test_decode_sreset : decode (0x9#4 ++ 0#28) = .ok .sreset := by decide

/-- A reserved OP and a reserved bit (R83, R85). -/
theorem test_decode_refuses :
    decode 0xB0000000 = .error (.reservedOp 0xB) ∧ decode 0x20E10000 = .error (.reservedBits 2) := by decide

/-- The host's numbering of the bits: the one word, and a word cut to the bits the table gives the row. -/
theorem test_decodeTableWord :
    decodeTableWord 32 0x10000101 = some (.push true 0x01) ∧ decodeTableWord 32 0xA0000000 = none := by decide

/-! ### Small states -/

/-- Slot 0 as ARM0 and slot 1 as ARM1 of 95_test_vectors.md, in the reference configuration. -/
def armed : State :=
  { State.reset with slots := [⟨0x0011, 20, 0x0301, 0x0A00, 0, 0⟩, ⟨0x0053, 8, 0x0401, 0x0200, 0x5441, 0⟩] }

/-- After PUSH.F 01: both response headers still match. -/
def inHeader : State := { armed with fsm := .hdr, pos := 1, candr := 0b11, rbuf := [(0, 0x01)] }

/-- After PUSH.F 41: the noise header of slot 1 still matches. -/
def inNoise : State := { armed with fsm := .hdr, pos := 1, candn := 0b10, rbuf := [(0, 0x41)] }

/-- After the header of slot 1 but for its last byte. -/
def lastOfHeader : State := { armed with fsm := .hdr, pos := 3, candr := 0b10, rbuf := [(0, 0x01), (1, 0x04)] }

/-- Seven bytes into the frame F2 of 95_test_vectors.md. -/
def inFrame : State :=
  { armed with fsm := .accum, slot := 1, pos := 7,
               rbuf := [(0, 0x01), (1, 0x04), (3, 0x02), (4, 0x12), (5, 0x34), (6, 0x5C)] }

/-- The frame F2. -/
def frame2 : List Byte := [0x01, 0x04, 0x00, 0x02, 0x12, 0x34, 0x5C, 0xBD]

/-- The frame F2 held. -/
def holding : State :=
  { armed with outv := true, outLen := 8, outSchema := 1, outCkok := true,
               obuf := [(0, 0x01), (1, 0x04), (3, 0x02), (4, 0x12), (5, 0x34), (6, 0x5C), (7, 0xBD)] }

/-- What a property of the next state says of an outcome. -/
def after (o : Host.Outcome State Fault Refusal) (p : State → Bool) : Bool :=
  match o with
  | .next t => p t
  | .fault _ => false
  | .refused _ => false

/-- The response of the next state. -/
def answers (code : Code) (rdata : Word) (t : State) : Bool := t.response == some ⟨code, rdata⟩

/-! ### One step of each operation -/

/-- R150's example. -/
theorem test_nop : after (exec .nop inFrame) (fun t => answers .ok 0 t && t.pos == 7 && t.fsm == .accum) = true := by decide

/-- The last byte of F2 (program P2): held, with its tag. -/
theorem test_push_completes_frame :
    after (exec (.push false 0xBD) inFrame) (fun t =>
      t.outv && t.outCkok && t.rq && t.obuf.bytes 8 == frame2 && t.outLen == 8 && t.outSchema == 1 && t.fsm == .idle) =
      true := by decide +kernel

/-- 04 after 01 leaves slot 1's header only (vector V-RA-1 shows CAND for slot 0's). -/
theorem test_push_narrows_candidates :
    after (exec (.push false 0x04) inHeader) (fun t => t.pos == 2 && t.candr == 0b10 && t.candn == 0) = true := by decide

/-- R153's example. -/
theorem test_wrreg_explen :
    after (performWord 0x21100014 State.reset) (fun t =>
      answers .ok 0 t && t.slotAt 0 == ⟨0, 0x0014, 0, 0, 0, 0⟩ && t.slotAt 1 == Slot.reset) = true := by decide

/-- Write 1 to clear: step 36 of program P5. -/
theorem test_wrreg_status :
    after (performWord 0x20200800 { State.reset with ovr := true, mism := true }) (fun t => !t.ovr && t.mism) = true := by
  decide

/-- OUTINFO with F2 held: step 32 of program P2. -/
theorem test_rdreg_outinfo : after (performWord 0x30600000 holding) (answers .ok 0x0301) = true := by decide

/-- An unmapped address: step 5 of program P4. -/
theorem test_rdreg_bad_addr :
    after (performWord 0x30E00000 State.reset) (fun t => answers .badAddr 0 t && t.err) = true := by decide

/-- R133's example, with POS = 7. -/
theorem test_cancel :
    after (performWord 0x40000000 inFrame) (fun t => t.fsm == .idle && t.pos == 0 && t.slot == 0 && !t.outv) = true := by
  decide

/-- R156's example. -/
theorem test_release : after (performWord 0x50000000 holding) (fun t => answers .ok 0 t && !t.outv && t.outLen == 0) = true := by
  decide

/-- R156: nothing is held. -/
theorem test_release_no_frame :
    after (performWord 0x50000000 armed) (fun t => answers .noFrame 0 t && t.err) = true := by decide

/-- R107's example. -/
theorem test_ckinit :
    after (performWord 0x60000001 { State.reset with ckAcc := 5, ckCnt := 9 }) (fun t =>
      t.ckAcc == 0xFFFF && t.ckCnt == 0 && t.readReg .ckstat == 0x0001) = true := by decide

/-- Vector V-CU-4. -/
theorem test_ckfeed : after (performWord 0x70000001 State.reset) (fun t => t.ckAcc == 0x807E && t.ckCnt == 1) = true := by
  decide

/-- The count saturates (vector V-CU-5). -/
theorem test_ckfeed_saturates :
    after (performWord 0x70000000 { State.reset with ckCnt := 0xFFFF }) (fun t => t.ckCnt == 0xFFFF) = true := by decide

/-- FRREAD 4 of F2: step 38 of program P2. -/
theorem test_frread : after (performWord 0x80000004 holding) (answers .ok 0x0012) = true := by decide

/-- The first index past the frame. -/
theorem test_frread_range : after (performWord 0x80000008 holding) (fun t => answers .range 0 t && t.err) = true := by decide

/-- R157's example, and that ERR is cleared. -/
theorem test_sreset :
    after (performWord 0x90000000 { holding with err := true }) (fun t =>
      answers .ok 0 t && t.slotAt 0 == Slot.reset && !t.outv && !t.err) = true := by decide

/-- Step 11 of program P4: a reserved bit and an unmapped address, ILLEGAL wins. -/
theorem test_illegal : after (performWord 0x20E10000 armed) (fun t => answers .illegal 0 t && t.err) = true := by decide

/-- A word placed where the step fetches is performed by the next step. -/
theorem test_withFetchWord : after (step (State.reset.withFetchWord 32 0x70000001)) (fun t => t.ckAcc == 0x807E) = true := by
  decide

/-! ### The checksum functions -/

/-- Vectors V-CK-5 and V-CK-21. -/
theorem test_crc16 :
    crc16 [0x31, 0x32, 0x33, 0x34, 0x35, 0x36, 0x37, 0x38, 0x39] = 0x4B37 ∧ crcStep 0xFFFF 0x01 = 0x807E := by decide +kernel

/-- Vectors V-CK-5 and V-CK-9, and the wire bytes of V-CK-6. -/
theorem test_sum8_and_compute :
    sum8 [0x31, 0x32, 0x33, 0x34, 0x35, 0x36, 0x37, 0x38, 0x39] = 0xDD ∧ sum8 [0xFF, 0x01] = 0x00 ∧
    compute .crc [0x01, 0x03, 0x00, 0x00, 0x00, 0x0A] = [0xC5, 0xCD] := by decide +kernel

/-- Vectors V-CK-11, V-CK-12, V-CK-15, V-CK-16, V-CK-17 and V-CK-18. -/
theorem test_validate :
    validate .sum [] = false ∧ validate .crc [0x55] = false ∧
    validate .crc [0x01, 0x03, 0x00, 0x00, 0x00, 0x0A, 0xC5, 0xCD] = true ∧
    validate .crc [0x01, 0x03, 0x00, 0x00, 0x00, 0x0A, 0xCD, 0xC5] = false ∧
    validate .sum [0x01, 0x03, 0x00, 0x0A, 0x0E] = true ∧ validate .sum [0x01, 0x03, 0x00, 0x0B, 0x0E] = false := by decide +kernel

/-! ### Witnesses: for every statement with hypotheses, what meets them together -/

/-- For `WordsMean`: two words with FRREAD's OP, one selected and one with a reserved bit. -/
theorem witness_WordsMean :
    (0x80000007 : OpWord) >>> 28 = 0x80000000 >>> 28 ∧ (0x80000007 : OpWord) &&& 0xFFFF0000 = 0x80000000 ∧
    (0x80010007 : OpWord) >>> 28 = 0x80000000 >>> 28 ∧ (0x80010007 : OpWord) &&& 0xFFFF0000 ≠ 0x80000000 := by decide

theorem witness_EncodeOfDecode : decode 0x2FF0FFFF = .ok (.wrreg 0xFF 0xFFFF) := by decide +kernel

/-- The two clauses: the least reserved OP, and the least word with a reserved bit. -/
theorem witness_IllegalWordOnlyRaisesIllegal :
    ({ armed with port := [.op 0xA0000000, .reset] } : State).port = .op 0xA0000000 :: [.reset] ∧
    0xA ≤ ((0xA0000000 : OpWord) >>> 28).toNat ∧
    ({ armed with port := [.op 0x00000001] } : State).port = .op 0x00000001 :: [] ∧
    ∀ r ∈ opTable, (0x00000001 : OpWord) &&& r.mask ≠ r.pattern := by decide

theorem witness_StepRunsDecodedOperation :
    ({ armed with port := [.op 0x10000101] } : State).port = .op 0x10000101 :: [] ∧
    decode 0x10000101 = .ok (.push true 0x01) ∧ armed.port = [] := by decide

theorem witness_ResetStateValues : (1 : Nat) < 2 ∧ (State.resetOf 2 256).slots[1]? = some Slot.reset := by decide

theorem witness_ResetInputIsTheResetEvent :
    ({ inFrame with port := [.reset, .op 0] } : State).port = .reset :: [.op 0] := by decide

/-- The smallest and the largest instance, and a step that answers a next state. -/
theorem witness_ParametersAreConstants :
    (State.resetOf 1 6).Legal ∧ (State.resetOf 8 4096).Legal ∧
    ∃ t, step { armed with port := [.op 0x90000000] } = .next t := ⟨by decide, by decide, _, rfl⟩

theorem witness_ChecksumRegistersRead :
    let s : State := { armed with ckKind := .sum, ckAcc := 0x00FF, ckP1 := 0x0080, ckP2 := 0 }
    s.CkInv ∧ s.ckKind = .sum := by decide

theorem witness_CfgerrReportsArmedIllFormedSlots :
    ({ armed with slots := [⟨0x0001, 4, 0, 0, 0, 0⟩, ⟨0x0000, 4, 0, 0, 0, 0⟩] } : State).Legal := by decide

/-- Addresses on both sides of every border of the register map, with two slots. -/
theorem witness_RdregOfEveryAddress :
    (∀ a ∈ [0x0D, 0x0F, 0x16, 0x17, 0x1E, 0x20, 0xFF], Unmapped armed.nschema a) ∧
    (∀ a ∈ [0x00, 0x0C, 0x10, 0x15, 0x18, 0x1D], ¬ Unmapped armed.nschema a) ∧
    armed.slots[1]? = some ⟨0x0053, 8, 0x0401, 0x0200, 0x5441, 0⟩ ∧ (0x18#8).toNat = 0x10 + 8 * 1 + 0 ∧
    (0x19#8).toNat = 0x10 + 8 * 1 + 1 ∧ (0x1A#8).toNat = 0x10 + 8 * 1 + 2 ∧ (0x1B#8).toNat = 0x10 + 8 * 1 + 3 ∧
    (0x1C#8).toNat = 0x10 + 8 * 1 + 4 ∧ (0x1D#8).toNat = 0x10 + 8 * 1 + 5 := by decide

/-- The read-only addresses at their borders; none of them is unmapped, STATUS, IE or a slot's. -/
theorem witness_WrregOfEveryAddress :
    ReadOnlyAddr 0x00 ∧ ReadOnlyAddr 0x01 ∧ ¬ ReadOnlyAddr 0x02 ∧ ¬ ReadOnlyAddr 0x03 ∧ ReadOnlyAddr 0x04 ∧
    ReadOnlyAddr 0x0C ∧ ¬ ReadOnlyAddr 0x0D ∧ Unmapped armed.nschema 0x0D ∧ ¬ ReadOnlyAddr 0x10 ∧ 1 < armed.nschema ∧
    (0x10#8).toNat = 0x10 + 8 * 0 + 0 ∧ (0x1D#8).toNat = 0x10 + 8 * 1 + 5 ∧
    ∀ a < 256, ¬ (ReadOnlyAddr a ∧ Unmapped armed.nschema a) := by decide +kernel

theorem witness_SlotRegisterReadsBack :
    armed.Legal ∧ 1 < armed.nschema ∧ 5 < 6 ∧ (0x06 : BitVec 8) ≠ slotAddr 1 5 ∧ (0x06 : BitVec 8) ≠ 0x08 ∧
    exec (.rdreg 0x06) armed = .next { armed with response := some ⟨.ok, 0x0000⟩ } :=
  ⟨by decide, by decide, by decide, by decide, by decide, rfl⟩

/-- Nothing held; the first index past the frame; the last index of it, with a frame as long as BUFMAX. -/
theorem witness_FrreadResult :
    armed.outv = false ∧ (holding.outv = true ∧ holding.outLen.toNat ≤ (8 : Word).toNat) ∧
    let full : State := { holding with outLen := 256 }
    full.outv = true ∧ (255 : Word).toNat < full.outLen.toNat ∧ full.outLen.toNat ≤ full.bufmax := by decide

theorem witness_ReadframeReturnsTheHeldFrame : holding.outv = true ∧ holding.outLen.toNat ≤ holding.bufmax := by decide

theorem witness_ReleaseResult : armed.outv = false ∧ holding.outv = true := by decide

/-- Both forms, with the response OK. -/
theorem witness_ReadsAreIdempotent :
    (∃ t, exec (.rdreg 0x02) holding = .next t ∧ t.response = some ⟨.ok, 0x0003⟩) ∧
    ∃ t, exec (.frread 7) holding = .next t ∧ t.response = some ⟨.ok, 0x00BD⟩ := ⟨⟨_, rfl, rfl⟩, _, rfl, rfl⟩

theorem witness_ResponseCodeOfEveryWord :
    holding.Legal ∧ (holding.outv = true → holding.outLen.toNat ≤ holding.bufmax) := by decide

theorem witness_ErrorsOnlySetErr :
    ∃ t, performWord 0x20E10000 armed = .next t ∧ t.response = some ⟨.illegal, 0x0000⟩ ∧ Code.illegal ≠ Code.ok :=
  ⟨_, rfl, rfl, by decide⟩

/-- A successful RDREG, a successful FRREAD, and a word that is neither. -/
theorem witness_RdataIsZeroUnlessARead :
    (∃ t, performWord 0x30700000 holding = .next t ∧ t.response = some ⟨.ok, 0x0008⟩ ∧
      (0x30700000 : OpWord).toNat / 2 ^ 28 = 3) ∧
    (∃ t, performWord 0x80000007 holding = .next t ∧ t.response = some ⟨.ok, 0x00BD⟩ ∧
      (0x80000007 : OpWord).toNat / 2 ^ 28 = 8) ∧
    ∃ t, performWord 0x50000000 holding = .next t ∧ t.response = some ⟨.ok, 0x0000⟩ :=
  ⟨⟨_, rfl, rfl, by decide⟩, ⟨_, rfl, rfl, by decide⟩, _, rfl, rfl⟩

/-- All sticky bits set, and a WRREG to STATUS that names only NOISE. -/
theorem witness_StickyBitsStayUntilCleared :
    let s : State := { armed with noise := true, mism := true, ovf := true, ovr := true, err := true }
    (∃ t, exec (.wrreg 0x02 0x0100) s = .next t) ∧ Instr.wrreg 0x02 0x0100 ≠ .sreset ∧
    s.mism = true ∧ (0x0100 : Word).getLsbD 9 = false ∧ (0x0000 : Word).getLsbD 8 = false :=
  ⟨⟨_, rfl⟩, by decide, by decide, by decide, by decide⟩

/-- Both kinds, and the count at its bound. -/
theorem witness_CkfeedResult :
    armed.ckKind = .crc ∧ ({ armed with ckKind := .sum, ckCnt := 0xFFFF } : State).ckKind = .sum := by decide

/-- A flipped bit of the first byte and one of the checksum byte itself. -/
theorem witness_ChecksumCornerCases :
    validate .sum [0x01, 0x02, 0x03] = true ∧ 0 < [0x01, 0x02, 0x03].length ∧ 2 < [0x01, 0x02, 0x03].length ∧ 7 < 8 := by
  decide

theorem witness_PushCompletes :
    ({ inFrame with noise := true, mism := true, ovf := true, ovr := true, outv := true, outLen := 8 } : State).Legal := by
  decide

/-- A byte with no chunk start, one with SOF, one re-queued; the masks of the eligible slots. -/
theorem witness_StartSeedsTheCandidates :
    armed.Legal ∧ armed.fsm = .idle ∧ armed.rq = false ∧ ({ armed with rq := true } : State).rq = true ∧
    (∀ j, (0b11#8).getLsbD j = true ↔ armed.eligible j = true) ∧
    (∀ j, (0b10#8).getLsbD j = true ↔ armed.eligible j = true ∧ 1 ≤ (armed.slotAt j).nhlen) := by
  refine ⟨by decide, by decide, by decide, by decide, fun j => ?_, fun j => ?_⟩
  · by_cases hj : j < 8
    · interval_cases j <;> decide
    · exact iff_of_false (fun h => hj (BitVec.lt_of_getLsbD h))
        fun h => hj (Nat.lt_of_lt_of_le (State.lt_nschema_of_eligible h) (by decide))
  · by_cases hj : j < 8
    · interval_cases j <;> decide
    · exact iff_of_false (fun h => hj (BitVec.lt_of_getLsbD h))
        fun h => hj (Nat.lt_of_lt_of_le (State.lt_nschema_of_eligible h.1) (by decide))

/-- The noise clause: the last byte of slot 1's noise header. -/
theorem witness_HeaderByteRule_noise :
    inNoise.Legal ∧ inNoise.fsm = .hdr ∧ inNoise.rbuf.wf ∧
    ∃ j, inNoise.NoiseStillMatches 0x54 j ∧ (inNoise.slotAt j).nhlen = inNoise.pos.toNat + 1 :=
  ⟨by decide, rfl, by decide, 1, ⟨by decide, by decide, by decide, by decide⟩, by decide⟩

/-- The response clause: the last byte of slot 1's response header. -/
theorem witness_HeaderByteRule_response :
    lastOfHeader.Legal ∧ lastOfHeader.fsm = .hdr ∧ lastOfHeader.rbuf.wf ∧
    (¬ ∃ j, lastOfHeader.NoiseStillMatches 0x02 j ∧ (lastOfHeader.slotAt j).nhlen = lastOfHeader.pos.toNat + 1) ∧
    lastOfHeader.ResponseStillMatches 0x02 1 ∧ (lastOfHeader.slotAt 1).rhlen = lastOfHeader.pos.toNat + 1 ∧
    ∀ i < 1, lastOfHeader.ResponseStillMatches 0x02 i → (lastOfHeader.slotAt i).rhlen ≠ lastOfHeader.pos.toNat + 1 := by
  refine ⟨by decide, rfl, by decide, ?_, ⟨by decide, by decide, by decide, by decide⟩, by decide, ?_⟩
  · rintro ⟨j, ⟨h, -⟩, -⟩
    exact absurd h (by simp [lastOfHeader, armed, State.reset, State.resetOf])
  · rintro i hi ⟨h, -⟩
    interval_cases i
    exact absurd h (by decide)

/-- No candidate matches the byte FF. -/
theorem inHeader_no_match (j : Nat) : ¬ inHeader.NoiseStillMatches 0xFF j ∧ ¬ inHeader.ResponseStillMatches 0xFF j := by
  refine ⟨fun h => absurd h.1 (by simp [inHeader, armed, State.reset, State.resetOf]), fun h => ?_⟩
  have hj : j < 8 := BitVec.lt_of_getLsbD h.1
  obtain ⟨h1, -, -, h4⟩ := h
  interval_cases j <;> revert h1 h4 <;> decide

/-- The two mismatch clauses: a byte that starts no chunk, and one that does, past the first byte; and the first byte. -/
theorem witness_HeaderByteRule_mismatch :
    inHeader.Legal ∧ inHeader.fsm = .hdr ∧ inHeader.rbuf.wf ∧ inHeader.rq = false ∧ inHeader.pos ≠ 0 ∧
    (∀ j, ¬ inHeader.NoiseStillMatches 0xFF j ∧ ¬ inHeader.ResponseStillMatches 0xFF j) ∧
    ({ inHeader with pos := 0 } : State).pos = 0 :=
  ⟨by decide, rfl, by decide, rfl, by decide, inHeader_no_match, rfl⟩

/-- The clause of a match that goes on. -/
theorem witness_HeaderByteRule_advance :
    inHeader.Legal ∧ inHeader.fsm = .hdr ∧ inHeader.rbuf.wf ∧
    (¬ ∃ j, inHeader.NoiseStillMatches 0x04 j ∧ (inHeader.slotAt j).nhlen = inHeader.pos.toNat + 1) ∧
    (¬ ∃ j, inHeader.ResponseStillMatches 0x04 j ∧ (inHeader.slotAt j).rhlen = inHeader.pos.toNat + 1) ∧
    ∃ j, inHeader.NoiseStillMatches 0x04 j ∨ inHeader.ResponseStillMatches 0x04 j := by
  refine ⟨by decide, rfl, by decide, ?_, ?_, 1, .inr ⟨by decide, by decide, by decide, by decide⟩⟩
  · rintro ⟨j, ⟨h, -⟩, -⟩
    exact absurd h (by simp [inHeader, armed, State.reset, State.resetOf])
  · rintro ⟨j, ⟨h, -⟩, hl⟩
    have hj : j < 8 := BitVec.lt_of_getLsbD h
    interval_cases j <;> revert h hl <;> decide

/-- The clauses: ill-formed, EXPLEN = POS, one byte short of complete, complete with the output free and held. -/
theorem witness_AccumulateByteRule :
    (inFrame.Legal ∧ inFrame.fsm = .accum ∧ inFrame.rbuf.wf ∧ inFrame.obuf.wf ∧ inFrame.rq = false) ∧
    (({ inFrame with slots := [Slot.reset, Slot.reset] } : State).slotAt 1).wellFormed inFrame.bufmax = false ∧
    (({ inFrame with slots := [Slot.reset, ⟨0x0053, 7, 0x0401, 0x0200, 0x5441, 0⟩] } : State).slotAt 1).explen.toNat ≤
      inFrame.pos.toNat ∧
    (inFrame.slotAt 1).wellFormed inFrame.bufmax = true ∧ inFrame.slot.toNat = 1 ∧
    ({ inFrame with pos := 6 } : State).pos.toNat + 1 < (inFrame.slotAt 1).explen.toNat ∧
    inFrame.pos.toNat + 1 = (inFrame.slotAt 1).explen.toNat ∧ inFrame.outv = false ∧
    ({ inFrame with outv := true, outLen := 8 } : State).outv = true := by decide

theorem witness_RequeueRule :
    inFrame.Legal ∧ inFrame.fsm = .accum ∧ inFrame.wellFormed inFrame.slot.toNat = true ∧
    inFrame.pos.toNat + 1 = (inFrame.slotAt inFrame.slot.toNat).explen.toNat ∧
    (let s : State := { armed with rq := true }
     s.fsm = .idle ∧ s.rq = true) ∧
    ∃ t, exec (.push false 0xBD) inFrame = .next t ∧ t.rq = true :=
  ⟨by decide, rfl, by decide, by decide, by decide, _, rfl, by decide⟩

/-- The premises about the slots for the frame F2 and slot 1, in a state whose slots are those of `armed`. -/
theorem frame2_premises :
    (∀ i, armed.eligible i = true → 1 ≤ (armed.slotAt i).nhlen →
      frame2.take (armed.slotAt i).nhlen ≠ (armed.slotAt i).nhBytes) ∧
    (∀ i, armed.eligible i = true → i ≠ 1 → frame2.take (armed.slotAt i).rhlen = (armed.slotAt i).rhBytes →
      ¬ ((armed.slotAt i).rhlen < (armed.slotAt 1).rhlen ∨ ((armed.slotAt i).rhlen = (armed.slotAt 1).rhlen ∧ i < 1))) := by
  refine ⟨fun i h => ?_, fun i h => ?_⟩ <;>
    (have hi : i < 2 := State.lt_nschema_of_eligible h
     interval_cases i <;> decide)

/-- Two partitions of F2, and one where the output is already held. -/
theorem witness_FrameCompletesInAnyChunking :
    (armed.Legal ∧ armed.fsm = .idle ∧ armed.rq = false ∧ armed.rbuf.wf ∧ armed.obuf.wf ∧ armed.eligible 1 = true ∧
      frame2.length = (armed.slotAt 1).explen.toNat ∧
      frame2.take (armed.slotAt 1).rhlen = (armed.slotAt 1).rhBytes ∧ armed.outv = false ∧ holding.outv = true) ∧
    ([[0x01, 0x04, 0x00], [0x02, 0x12, 0x34, 0x5C, 0xBD]] : List (List Byte)).flatten = frame2 ∧
    [] ∉ ([[0x01, 0x04, 0x00], [0x02, 0x12, 0x34, 0x5C, 0xBD]] : List (List Byte)) := by decide

theorem witness_ChunkBoundariesDoNotMatter :
    [frame2].flatten = frame2 ∧ [] ∉ [frame2] ∧ (frame2.map (fun b => [b])).flatten = frame2 ∧
    [] ∉ frame2.map (fun b => [b]) := by decide

/-- The chunk "AT+" of program P2 and slot 1's noise header; no response header is a prefix of it. -/
theorem witness_NoiseChunkIsDropped :
    (armed.Legal ∧ armed.fsm = .idle ∧ armed.rq = false ∧ armed.eligible 1 = true ∧ 1 ≤ (armed.slotAt 1).nhlen ∧
      ([0x41, 0x54, 0x2B] : List Byte).take (armed.slotAt 1).nhlen = (armed.slotAt 1).nhBytes) ∧
    ∀ i, armed.eligible i = true →
      ([0x41, 0x54, 0x2B] : List Byte).take (armed.slotAt i).rhlen = (armed.slotAt i).rhBytes →
      (armed.slotAt 1).nhlen ≤ (armed.slotAt i).rhlen := by
  refine ⟨by decide, fun i h => ?_⟩
  have hi : i < 2 := State.lt_nschema_of_eligible h
  interval_cases i <;> decide

/-- The longest header and the longest frame a slot can have. -/
theorem witness_ArmMakesTheSlotEligible :
    State.reset.Legal ∧ 1 < State.reset.nschema ∧ 1 ≤ (4#3).toNat ∧ (4#3).toNat ≤ 4 ∧ (4#3).toNat + ckLen .crc ≤ (256#16).toNat ∧
    (256#16).toNat ≤ State.reset.bufmax := by decide

/-- A state in the middle of a frame meets every invariant, and steps. -/
theorem witness_StepKeepsTheSpecInvariants :
    let s : State := { inFrame with port := [.op 0x100000BD] }
    s.SpecInv ∧ s.BuffersInv ∧ s.ReservedInv ∧ ∃ t, step s = .next t := ⟨by decide, by decide, by decide, _, rfl⟩

theorem witness_StepKeepsBuffersAndReservedBits :
    holding.BuffersInv ∧ holding.ReservedInv ∧ ∃ t, step { holding with port := [.op 0x50000000] } = .next t :=
  ⟨by decide, by decide, _, rfl⟩

theorem witness_ResetMeetsTheInvariants : Config.Legal 1 6 ∧ Config.Legal 8 4096 := by decide

theorem witness_InvariantStatesNeverStop : ({ holding with port := [.op 0x80000007] } : State).SpecInv := by decide

/-- Two different states that differ in unobservable bytes only, about to complete a frame. -/
theorem witness_UnspecifiedBytesAreUnobservable :
    let s : State := { inFrame with port := [.op 0x100000BD] }
    let t : State := { s with rbuf := s.rbuf ++ [(9, 0x77)], obuf := [(3, 0x55)] }
    s.SameButUnobservable t ∧ s ≠ t :=
  ⟨⟨rfl, by decide, by decide, by decide⟩, by decide⟩

/-- Three bytes of a stream with two reads between them. -/
theorem witness_ObserversDoNotDisturbTheStream :
    Interleaving [Instr.push true 0x01, .push false 0x04] [.rdreg 0x02, .ckfeed 0x01]
      [.rdreg 0x02, .push true 0x01, .ckfeed 0x01, .push false 0x04] ∧
    (∀ i ∈ [Instr.push true 0x01, .push false 0x04], isPush i = true) ∧
    (∀ i ∈ [Instr.rdreg 0x02, .ckfeed 0x01], isObserver i = true) ∧ armed.Legal ∧
    (armed.outv = true → armed.outLen.toNat ≤ armed.bufmax) :=
  ⟨.right (.left (.right (.left .nil))), by decide, by decide, by decide, by decide⟩

/-- An operation for each clause: WRREG, PUSH with a frame held, RELEASE. -/
theorem witness_EachPartHasItsWriters :
    (∃ t, exec (.wrreg 0x11 8) armed = .next t) ∧ (∃ t, exec (.push true 0x01) holding = .next t) ∧
    (∃ t, exec .release holding = .next t) ∧ isPush (.wrreg 0x11 8) = false ∧ holding.outv = true ∧
    Instr.push true 0x01 ≠ .sreset ∧ Instr.push true 0x01 ≠ .release :=
  ⟨⟨_, rfl⟩, ⟨_, rfl⟩, ⟨_, rfl⟩, by decide, by decide, by decide, by decide⟩

theorem witness_IeOnlyAffectsIrq : Instr.rdreg 0x02 ≠ .rdreg 0x03 ∧ Instr.push true 0x01 ≠ .rdreg 0x03 := by decide

end Sys2Proof.Tests
end

section
/-! PROOFS. The register interface of 10_state.md: what RDREG of a global register and WRREG of a read-only one answer,
the packed registers as numbers, NSCHEMA and BUFMAX under every step, and the reset values. -/

namespace Sys2Proof.Machine

/-! ### RDREG and WRREG at a mapped address -/

theorem exec_rdreg_of_regAt {s : State} {a : BitVec 8} {r : Reg} (h : regAt s.nschema a = some r) :
    exec (.rdreg a) s = .next (s.respond .ok (s.readReg r)) :=
  execRdreg_eq_next_iff.2 (.inr ⟨r, h, rfl⟩)

theorem exec_wrreg_of_readOnly {s : State} {a : BitVec 8} {r : Reg} (h : regAt s.nschema a = some r)
    (hr : r.readOnly = true) (d : Word) : exec (.wrreg a d) s = .next (s.raise .readOnly) :=
  execWrreg_eq_next_iff.2 (.inr (.inl ⟨r, h, hr, rfl⟩))

/-- A register of the first table of 10_state.md R24 is at its address in every configuration. -/
theorem regAt_of_globalReg {k : Nat} {r : Reg} (h : globalReg k = some r) (n : Nat) :
    regAt n (BitVec.ofNat 8 k) = some r := by
  have hk : ¬ 0x0D ≤ k := fun hk => by rw [globalReg_eq_none_iff.2 hk] at h; cases h
  rw [regAt_ofNat n (by omega), h]

theorem exec_rdreg_global {k : Nat} {r : Reg} (h : globalReg k = some r) (s : State) :
    exec (.rdreg (BitVec.ofNat 8 k)) s = .next (s.respond .ok (s.readReg r)) :=
  exec_rdreg_of_regAt (regAt_of_globalReg h s.nschema)

theorem exec_wrreg_global_readOnly {k : Nat} {r : Reg} (h : globalReg k = some r) (hr : r.readOnly = true)
    (s : State) (d : Word) : exec (.wrreg (BitVec.ofNat 8 k) d) s = .next (s.raise .readOnly) :=
  exec_wrreg_of_readOnly (regAt_of_globalReg h s.nschema) hr d

/-! ### The packed registers as numbers -/

/-- A bit field put above `n` lower bits weighs `2 ^ n`: with this a packed register is the sum of its fields. -/
theorem toNat_append_eq_add {m n : Nat} (x : BitVec m) (y : BitVec n) :
    (x ++ y).toNat = 2 ^ n * x.toNat + y.toNat := by
  rw [BitVec.toNat_append, ← Nat.shiftLeft_add_eq_or_of_lt y.isLt, Nat.shiftLeft_eq, Nat.mul_comm]

theorem toNat_ofBool_eq_bit (b : Bool) : (BitVec.ofBool b).toNat = bit b := by cases b <;> rfl

theorem readReg_fsmstat_toNat (s : State) :
    (s.readReg .fsmstat).toNat = s.fsm.bits.toNat + 2 ^ 2 * s.slot.toNat + 2 ^ 5 * bit s.rq := by
  simp only [State.readReg, toNat_append_eq_add, toNat_ofBool_eq_bit, BitVec.toNat_ofNat]
  omega

theorem readReg_outinfo_toNat (s : State) :
    (s.readReg .outinfo).toNat = s.outSchema.toNat + 2 ^ 8 * bit s.outv + 2 ^ 9 * bit s.outCkok := by
  simp only [State.readReg, toNat_append_eq_add, toNat_ofBool_eq_bit, BitVec.toNat_ofNat]
  omega

theorem readReg_ckstat_toNat (s : State) : (s.readReg .ckstat).toNat = bit s.ckKind.bit + 2 * bit s.ckOk := by
  simp only [State.readReg, toNat_append_eq_add, toNat_ofBool_eq_bit, BitVec.toNat_ofNat]
  omega

/-- In a legal configuration NSCHEMA fits the four bits of PARAM0 that hold it. -/
theorem readReg_param0_toNat {s : State} (h : s.Legal) : (s.readReg .param0).toNat = s.nschema := by
  obtain ⟨-, hn, -, -⟩ := h
  exact Nat.mod_eq_of_lt (by omega)

theorem readReg_param1_toNat {s : State} (h : s.Legal) : (s.readReg .param1).toNat = s.bufmax := by
  obtain ⟨-, -, -, hb⟩ := h
  exact Nat.mod_eq_of_lt (by omega)

/-- The high twelve bits of a word are 0 when its value fits the low four. -/
theorem extractLsb'_four_twelve_eq_zero {w : Word} (h : w.toNat < 2 ^ 4) : w.extractLsb' 4 12 = 0 := by
  apply BitVec.eq_of_toNat_eq
  simp only [BitVec.extractLsb'_toNat, Nat.shiftRight_eq_div_pow, Nat.div_eq_of_lt h]
  rfl

/-- A word is less than 256 when its high byte is 0. -/
theorem toNat_lt_of_highByte_eq_zero {w : Word} (h : w.extractLsb' 8 8 = 0) : w.toNat < 2 ^ 8 := by
  have hhigh : w.toNat / 2 ^ 8 % 2 ^ 8 = 0 := by
    simpa [Nat.shiftRight_eq_div_pow] using congrArg BitVec.toNat h
  have := w.isLt
  omega

/-- CFGERR bit by bit (10_state.md R34): with at most 8 slots, the mask has room for every slot. -/
theorem cfgerr_getLsbD {s : State} (hn : s.nschema ≤ 8) {j : Nat} (hj : j < 16) :
    s.cfgerr.getLsbD j = (decide (j < s.nschema) && (s.slotAt j).en && !s.wellFormed j) := by
  by_cases hs : j < s.nschema
  · have h8 : j < 8 := by omega
    simp [State.cfgerr, -BitVec.getLsbD_eq_getElem, hj, hs, h8]
  · simp [State.cfgerr, hs]

@[simp] theorem State.respond_irq (s : State) (c : Code) (d : Word) : (s.respond c d).irq = s.irq := rfl

/-! ### The parameters NSCHEMA and BUFMAX -/

/-- The two states are of one configuration: NSCHEMA and BUFMAX agree (00_scope.md R7, R8). -/
structure State.SameConfig (s t : State) : Prop where
  nschema : t.nschema = s.nschema
  bufmax : t.bufmax = s.bufmax

/-- Only the slot file and BUFMAX say which configuration a state is of. -/
theorem State.SameConfig.of_slots {s t : State} (hs : t.slots = s.slots) (hb : t.bufmax = s.bufmax) :
    s.SameConfig t :=
  ⟨State.nschema_congr hs, hb⟩

theorem State.SameConfig.trans {s t u : State} (h : s.SameConfig t) (g : t.SameConfig u) : s.SameConfig u :=
  ⟨g.nschema.trans h.nschema, g.bufmax.trans h.bufmax⟩

theorem State.respond_sameConfig (s : State) (c : Code) (d : Word) : s.SameConfig (s.respond c d) :=
  .of_slots rfl rfl

theorem State.raise_sameConfig (s : State) (c : Code) : s.SameConfig (s.raise c) := .of_slots rfl rfl

theorem State.resetEvent_sameConfig (s : State) : s.SameConfig s.resetEvent :=
  ⟨s.resetEvent_nschema, s.resetEvent_bufmax⟩

/-- A write to a slot register replaces one slot of the file, so the number of slots stays. -/
theorem State.setSlot_sameConfig (s : State) (j : Nat) (x : Slot) : s.SameConfig (s.setSlot j x) :=
  ⟨s.setSlot_nschema j x, rfl⟩

theorem State.writeReg_sameConfig (s : State) (d : Word) (r : Reg) : s.SameConfig (s.writeReg d r) := by
  cases r with
  | scfg j | explen j | rhdr01 j | rhdr23 j | nhdr01 j | nhdr23 j => exact s.setSlot_sameConfig j _
  | status | ie | param0 | param1 | fsmstat | fsmpos | outinfo | outlen | cfgerr | ckstat | ckres | ckcnt | cand =>
    exact .of_slots rfl rfl

theorem exec_sameConfig {i : Instr} {s t : State} (h : exec i s = .next t) : s.SameConfig t := by
  cases i with
  | nop => cases h; exact .of_slots rfl rfl
  | push sof b =>
    obtain ⟨u, hu, rfl⟩ := execPush_eq_next_iff.1 h
    have hframe := (State.pushByte_frame hu).1
    exact .of_slots hframe.slots hframe.bufmax
  | wrreg a d =>
    obtain ⟨-, rfl⟩ | ⟨r, -, -, rfl⟩ | ⟨r, -, -, rfl⟩ := execWrreg_eq_next_iff.1 h
    · exact s.raise_sameConfig _
    · exact s.raise_sameConfig _
    · exact (s.writeReg_sameConfig d r).trans (State.respond_sameConfig _ _ _)
  | rdreg a =>
    obtain ⟨-, rfl⟩ | ⟨r, -, rfl⟩ := execRdreg_eq_next_iff.1 h
    · exact s.raise_sameConfig _
    · exact s.respond_sameConfig _ _
  | cancel => cases h; exact .of_slots rfl rfl
  | release =>
    obtain ⟨-, rfl⟩ | ⟨-, rfl⟩ := execRelease_eq_next_iff.1 h
    · exact s.raise_sameConfig _
    · exact .of_slots rfl rfl
  | ckinit k => cases h; exact .of_slots rfl rfl
  | ckfeed b => cases h; exact .of_slots rfl rfl
  | frread i =>
    obtain ⟨-, rfl⟩ | ⟨-, -, rfl⟩ | ⟨-, -, -, rfl⟩ := execFrread_eq_next_iff.1 h
    · exact s.raise_sameConfig _
    · exact s.raise_sameConfig _
    · exact s.respond_sameConfig _ _
  | sreset => cases h; exact s.resetEvent_sameConfig.trans (State.respond_sameConfig _ _ _)

theorem performWord_sameConfig {w : OpWord} {s t : State} (h : performWord w s = .next t) : s.SameConfig t := by
  cases hw : decode w with
  | ok i => exact exec_sameConfig (performWord_of_ok hw s ▸ h)
  | error e =>
    rw [performWord_of_error hw] at h
    cases h
    exact s.raise_sameConfig _

theorem step_sameConfig {s t : State} (h : step s = .next t) : s.SameConfig t := by
  cases hp : s.port with
  | nil =>
    rw [step_of_port_nil hp] at h
    cases h
    exact .of_slots rfl rfl
  | cons x rest =>
    have hport : s.SameConfig { s with port := rest } := .of_slots rfl rfl
    cases x with
    | reset =>
      rw [step_of_port_reset hp] at h
      cases h
      exact hport.trans (State.resetEvent_sameConfig _)
    | op w => exact hport.trans (performWord_sameConfig (step_of_port_op hp ▸ h))

/-! ### The slot file after reset -/

theorem State.resetOf_slots_getElem? {n j : Nat} (hj : j < n) (b : Nat) :
    (State.resetOf n b).slots[j]? = some Slot.reset :=
  List.getElem?_replicate_of_lt hj

/-! ### The statements -/

/-- Settles O13: the two reads in a legal configuration, and `step_sameConfig`. -/
theorem parametersAreConstants : Obligations.ParametersAreConstants := by
  refine ⟨fun s hs => ⟨⟨_, exec_rdreg_global (k := 0x00) rfl s, readReg_param0_toNat hs, ?_⟩,
    ⟨_, exec_rdreg_global (k := 0x01) rfl s, readReg_param1_toNat hs⟩⟩, fun s t h => ?_⟩
  · obtain ⟨-, hn, -, -⟩ := id hs
    exact extractLsb'_four_twelve_eq_zero (by rw [readReg_param0_toNat hs]; omega)
  · exact ⟨(step_sameConfig h).nschema, (step_sameConfig h).bufmax⟩

/-- Settles O15: FSMSTAT is the sum of its fields, FSMPOS is POS, and neither can be written. -/
theorem fsmRegistersRead : Obligations.FsmRegistersRead := fun s =>
  ⟨⟨_, exec_rdreg_global (k := 0x04) rfl s, by rw [readReg_fsmstat_toNat]; cases s.fsm <;> rfl⟩,
    exec_rdreg_global (k := 0x05) rfl s,
    fun d => ⟨exec_wrreg_global_readOnly (k := 0x04) rfl rfl s d, exec_wrreg_global_readOnly (k := 0x05) rfl rfl s d⟩⟩

/-- Settles O16: OUTINFO is the sum of its fields, OUTLEN is OUT_LEN, and neither can be written. -/
theorem outputRegistersRead : Obligations.OutputRegistersRead := fun s =>
  ⟨⟨_, exec_rdreg_global (k := 0x06) rfl s, readReg_outinfo_toNat s⟩,
    exec_rdreg_global (k := 0x07) rfl s,
    fun d => ⟨exec_wrreg_global_readOnly (k := 0x06) rfl rfl s d, exec_wrreg_global_readOnly (k := 0x07) rfl rfl s d⟩⟩

/-- Settles O17: the three reads, the three refused writes, and the accumulator's high byte for SUM. -/
theorem checksumRegistersRead : Obligations.ChecksumRegistersRead := by
  refine fun s => ⟨⟨_, exec_rdreg_global (k := 0x09) rfl s, ?_⟩, exec_rdreg_global (k := 0x0A) rfl s,
    exec_rdreg_global (k := 0x0B) rfl s, ?_, ?_⟩
  · rw [readReg_ckstat_toNat]; cases s.ckKind <;> rfl
  · rintro a d (rfl | rfl | rfl)
    · exact exec_wrreg_global_readOnly (k := 0x09) rfl rfl s d
    · exact exec_wrreg_global_readOnly (k := 0x0A) rfl rfl s d
    · exact exec_wrreg_global_readOnly (k := 0x0B) rfl rfl s d
  · intro hck hsum
    obtain ⟨hacc, -, -⟩ := hck hsum
    exact toNat_lt_of_highByte_eq_zero hacc

/-- Settles O20: CFGERR bit by bit; the read answers by a response, on which irq does not depend. -/
theorem cfgerrReportsArmedIllFormedSlots : Obligations.CfgerrReportsArmedIllFormedSlots := by
  rintro s ⟨-, hn, -, -⟩
  exact ⟨exec_wrreg_global_readOnly (k := 0x08) rfl rfl s,
    s.cfgerr, _, exec_rdreg_global (k := 0x08) rfl s, rfl, s.respond_irq _ _, fun j hj => cfgerr_getLsbD hn hj⟩

/-- Settles O8: NSCHEMA is the length of the slot file, every slot is the reset slot, every other piece is a field of
`State.resetOf`. -/
theorem resetStateValues : Obligations.ResetStateValues := fun n b =>
  ⟨State.resetOf_nschema n b, rfl, fun _ hj => State.resetOf_slots_getElem? hj b, rfl, rfl, rfl, rfl, rfl, rfl, rfl, rfl,
    rfl, rfl, rfl, rfl, rfl, rfl, rfl, rfl, rfl, rfl, rfl, rfl, rfl, rfl, rfl⟩

end Sys2Proof.Machine
end

section
/-! PROOFS. The encoding of 30_encoding.md: the decoder by the operation's number, the opcode table's rows as sets of
words, the response of every word, and what an illegal word does. -/

namespace Sys2Proof

/-! ### The decoder, by the number of the operation -/

/-- The lowest reserved bit of an operation's word (30_encoding.md R82, the column "mask"). -/
def reservedLow : Instr → Nat
  | .push _ _ => 9
  | .wrreg _ _ | .frread _ => 16
  | .ckinit _ => 1
  | .ckfeed _ => 8
  | .nop | .rdreg _ | .cancel | .release | .sreset => 0

/-- How many reserved bits an operation's word has; they are consecutive. -/
def reservedCount : Instr → Nat
  | .push _ _ => 19
  | .wrreg _ _ => 4
  | .rdreg _ | .ckfeed _ => 20
  | .ckinit _ => 27
  | .frread _ => 12
  | .nop | .cancel | .release | .sreset => 28

/-- The operation with its operands replaced by the fields of a word (R81, R84). -/
def withFieldsOf (w : OpWord) : Instr → Instr
  | .nop => .nop
  | .push _ _ => .push (sofField w) (byteField w)
  | .wrreg _ _ => .wrreg (addrField w) (dataField w)
  | .rdreg _ => .rdreg (addrField w)
  | .cancel => .cancel
  | .release => .release
  | .ckinit _ => .ckinit (kindField w)
  | .ckfeed _ => .ckfeed (byteField w)
  | .frread _ => .frread (idxField w)
  | .sreset => .sreset

@[simp] theorem opNumber_withFieldsOf (w : OpWord) (i : Instr) : opNumber (withFieldsOf w i) = opNumber i := by
  cases i <;> rfl

@[simp] theorem reservedLow_withFieldsOf (w : OpWord) (i : Instr) : reservedLow (withFieldsOf w i) = reservedLow i := by
  cases i <;> rfl

@[simp] theorem reservedCount_withFieldsOf (w : OpWord) (i : Instr) :
    reservedCount (withFieldsOf w i) = reservedCount i := by
  cases i <;> rfl

@[simp] theorem withFieldsOf_withFieldsOf (w : OpWord) (i : Instr) :
    withFieldsOf w (withFieldsOf w i) = withFieldsOf w i := by
  cases i <;> rfl

theorem opNumber_lt_ten (i : Instr) : opNumber i < 10 := by cases i <;> simp [opNumber]

/-- Every assigned OP value is the number of an operation (R82). -/
theorem exists_opNumber_eq {k : Nat} (h : k < 10) : ∃ i, opNumber i = k := by
  have hops : ∀ k < 10, ∃ i ∈ [Instr.nop, .push false 0, .wrreg 0 0, .rdreg 0, .cancel, .release, .ckinit .sum, .ckfeed 0,
      .frread 0, .sreset], opNumber i = k := by decide
  obtain ⟨i, -, hi⟩ := hops k h
  exact ⟨i, hi⟩

/-- The ten rows of the decoder as one: a word with the OP of `i` is `i` with the word's fields, if `i`'s reserved bits
are zero in it. -/
theorem decode_of_opNumber {w : OpWord} {i : Instr} (h : (opField w).toNat = opNumber i) :
    decode w = strict w (w.extractLsb' (reservedLow i) (reservedCount i)) (withFieldsOf w i) := by
  cases i with
  | nop => exact decode_of_op_nop h
  | push sof b => exact decode_of_op_push h
  | wrreg a d => exact decode_of_op_wrreg h
  | rdreg a => exact decode_of_op_rdreg h
  | cancel => exact decode_of_op_cancel h
  | release => exact decode_of_op_release h
  | ckinit k => exact decode_of_op_ckinit h
  | ckfeed b => exact decode_of_op_ckfeed h
  | frread j => exact decode_of_op_frread h
  | sreset => exact decode_of_op_sreset h

/-- What the decoder accepts: the operation's OP, zero reserved bits, and the word's fields as operands. -/
theorem decode_eq_ok_iff {w : OpWord} {i : Instr} :
    decode w = .ok i ↔
      (opField w).toNat = opNumber i ∧ w.extractLsb' (reservedLow i) (reservedCount i) = 0 ∧ withFieldsOf w i = i := by
  constructor
  · intro h
    have hassigned : (opField w).toNat < 10 := by
      by_contra hop
      rw [decode_of_op_reserved (by omega)] at h
      cases h
    obtain ⟨j, hj⟩ := exists_opNumber_eq hassigned
    rw [decode_of_opNumber hj.symm, strict_eq_ok_iff] at h
    obtain ⟨hres, rfl⟩ := h
    refine ⟨by rw [opNumber_withFieldsOf, hj], ?_, withFieldsOf_withFieldsOf w j⟩
    rwa [reservedLow_withFieldsOf, reservedCount_withFieldsOf]
  · rintro ⟨hop, hres, hfields⟩
    rw [decode_of_opNumber hop, strict_of_zero hres, hfields]

/-! ### The rows of the opcode table -/

/-- The match value of a row: its OP, every other bit zero (R82). -/
def rowPattern (op : BitVec 4) : OpWord := op.zeroExtend 32 <<< 28

/-- The mask of a row: the OP bits and `n` reserved bits from bit `lo` up (R82). -/
def rowMask (lo n : Nat) : OpWord := rowPattern (BitVec.allOnes 4) ||| ((BitVec.allOnes n).zeroExtend 32 <<< lo)

/-- Every operation has its row in the table, with its number as OP and its reserved bits in the mask. -/
theorem row_mem_opTable (i : Instr) :
    (⟨i.mnemonic, rowPattern (BitVec.ofNat 4 (opNumber i)), rowMask (reservedLow i) (reservedCount i)⟩ : OpRow)
      ∈ opTable := by
  cases i <;> simp only [Instr.mnemonic, opNumber, reservedLow, reservedCount] <;> decide

theorem rowPattern_getLsbD (op : BitVec 4) {k : Nat} (hk : k < 32) :
    (rowPattern op).getLsbD k = (decide (28 ≤ k) && op.getLsbD (k - 28)) := by
  have hlow : k - 28 < 32 := by omega
  simp only [rowPattern, BitVec.getLsbD_shiftLeft, BitVec.getLsbD_setWidth, hk, hlow, decide_true, Bool.true_and,
    ← decide_not, Nat.not_lt]

theorem rowMask_getLsbD (lo n : Nat) {k : Nat} (hk : k < 32) :
    (rowMask lo n).getLsbD k = (decide (28 ≤ k) || decide (lo ≤ k ∧ k - lo < n)) := by
  have hop : k - 28 < 4 := by omega
  have hlow : k - lo < 32 := by omega
  simp only [rowMask, BitVec.getLsbD_or, rowPattern_getLsbD _ hk, BitVec.getLsbD_shiftLeft, BitVec.getLsbD_setWidth,
    BitVec.getLsbD_allOnes, hk, hop, hlow, decide_true, Bool.and_true, Bool.true_and, ← decide_not, Nat.not_lt,
    Bool.decide_and]

/-- A word with zero reserved bits is selected by the row of its OP: the mask keeps the OP bits, and of the others only
bits that are zero in the word. -/
theorem and_rowMask_eq_rowPattern {w : OpWord} {lo n : Nat} (hres : w.extractLsb' lo n = 0) :
    w &&& rowMask lo n = rowPattern (opField w) := by
  refine BitVec.eq_of_getLsbD_eq fun k hk => ?_
  rw [BitVec.getLsbD_and, rowMask_getLsbD lo n hk, rowPattern_getLsbD _ hk]
  by_cases hop : 28 ≤ k
  · have hbit : 28 + (k - 28) = k := by omega
    have h4 : k - 28 < 4 := by omega
    simp only [opField, BitVec.getLsbD_extractLsb', hop, h4, hbit, decide_true, Bool.true_or, Bool.and_true, Bool.true_and]
  · by_cases hreserved : lo ≤ k ∧ k - lo < n
    · have hbit : lo + (k - lo) = k := by omega
      have hzero : w.getLsbD k = false := by
        simpa [hreserved.2, hbit, -BitVec.getLsbD_eq_getElem] using congrArg (fun r => r.getLsbD (k - lo)) hres
      simp only [hzero, hop, decide_false, Bool.false_and]
    · simp only [hop, hreserved, decide_false, Bool.or_false, Bool.and_false, Bool.false_and]

/-- An operation word is selected by a row of the opcode table. -/
theorem exists_row_of_decode_ok {w : OpWord} {i : Instr} (h : decode w = .ok i) :
    ∃ r ∈ opTable, w &&& r.mask = r.pattern := by
  obtain ⟨hop, hres, -⟩ := decode_eq_ok_iff.1 h
  refine ⟨_, row_mem_opTable i, ?_⟩
  rw [← hop, BitVec.ofNat_toNat, BitVec.setWidth_eq]
  exact and_rowMask_eq_rowPattern hres

/-! ### The fields of a word as numbers -/

theorem opField_toNat (w : OpWord) : (opField w).toNat = w.toNat / 2 ^ 28 := by
  have := w.isLt
  rw [opField, BitVec.extractLsb'_toNat, Nat.shiftRight_eq_div_pow]
  omega

theorem toNat_ushiftRight_eq_opField (w : OpWord) : (w >>> 28).toNat = (opField w).toNat := by
  rw [opField_toNat, BitVec.toNat_ushiftRight, Nat.shiftRight_eq_div_pow]

theorem idxField_toNat (w : OpWord) : (idxField w).toNat = w.toNat % 2 ^ 16 := by
  rw [idxField, BitVec.extractLsb'_toNat, Nat.shiftRight_zero]

end Sys2Proof

namespace Sys2Proof.Machine

/-! ### The response of an operation -/

/-- The last response is (OK, RDATA) with RDATA as `P` says, or a code other than OK with RDATA 0. -/
def State.Answers (t : State) (P : Word → Prop) : Prop :=
  ∃ c d, t.response = some ⟨c, d⟩ ∧ (c = .ok → P d) ∧ (c ≠ .ok → d = 0x0000)

theorem State.respond_ok_answers (u : State) {P : Word → Prop} {d : Word} (h : P d) : (u.respond .ok d).Answers P :=
  ⟨.ok, d, rfl, fun _ => h, fun hc => absurd rfl hc⟩

theorem State.raise_answers (u : State) (P : Word → Prop) {c : Code} (h : c ≠ .ok) : (u.raise c).Answers P :=
  ⟨c, 0x0000, rfl, fun hc => absurd hc h, fun _ => rfl⟩

theorem State.Answers.mono {t : State} {P Q : Word → Prop} (h : t.Answers P) (hPQ : ∀ d, P d → Q d) : t.Answers Q := by
  obtain ⟨c, d, hresponse, hok, herror⟩ := h
  exact ⟨c, d, hresponse, fun hc => hPQ d (hok hc), herror⟩

/-- The RDATA of an operation that succeeds in a state: what RDREG and FRREAD read there, and 0 for the others
(30_encoding.md R88). -/
def State.IsRdataOf (s : State) (i : Instr) (d : Word) : Prop :=
  match i with
  | .rdreg a => ∃ r, regAt s.nschema a = some r ∧ d = s.readReg r
  | .frread j => d = (s.obuf.read j.toNat).zeroExtend 16
  | .nop | .push _ _ | .wrreg _ _ | .cancel | .release | .ckinit _ | .ckfeed _ | .sreset => d = 0x0000

theorem State.IsRdataOf.eq_zero {s : State} {i : Instr} {d : Word} (h : s.IsRdataOf i d) (hrdreg : opNumber i ≠ 3)
    (hfrread : opNumber i ≠ 8) : d = 0x0000 := by
  cases i with
  | rdreg a => exact absurd rfl hrdreg
  | frread j => exact absurd rfl hfrread
  | nop | push _ _ | wrreg _ _ | cancel | release | ckinit _ | ckfeed _ | sreset => exact h

theorem exec_answers {i : Instr} {s t : State} (h : exec i s = .next t) : t.Answers (s.IsRdataOf i) := by
  cases i with
  | nop | cancel | ckinit k | ckfeed b | sreset => cases h; exact State.respond_ok_answers _ rfl
  | push sof b =>
    obtain ⟨u, -, rfl⟩ := execPush_eq_next_iff.1 h
    exact u.respond_ok_answers rfl
  | wrreg a d =>
    obtain ⟨-, rfl⟩ | ⟨r, -, -, rfl⟩ | ⟨r, -, -, rfl⟩ := execWrreg_eq_next_iff.1 h
    · exact s.raise_answers _ (by decide)
    · exact s.raise_answers _ (by decide)
    · exact State.respond_ok_answers _ rfl
  | rdreg a =>
    obtain ⟨-, rfl⟩ | ⟨r, hr, rfl⟩ := execRdreg_eq_next_iff.1 h
    · exact s.raise_answers _ (by decide)
    · exact s.respond_ok_answers ⟨r, hr, rfl⟩
  | release =>
    obtain ⟨-, rfl⟩ | ⟨-, rfl⟩ := execRelease_eq_next_iff.1 h
    · exact s.raise_answers _ (by decide)
    · exact State.respond_ok_answers _ rfl
  | frread j =>
    obtain ⟨-, rfl⟩ | ⟨-, -, rfl⟩ | ⟨-, -, -, rfl⟩ := execFrread_eq_next_iff.1 h
    · exact s.raise_answers _ (by decide)
    · exact s.raise_answers _ (by decide)
    · exact s.respond_ok_answers rfl

/-- A word answers OK only as the operation it decodes to. -/
theorem performWord_answers {w : OpWord} {s t : State} (h : performWord w s = .next t) :
    t.Answers fun d => ∃ i, decode w = .ok i ∧ s.IsRdataOf i d := by
  cases hw : decode w with
  | ok i =>
    rw [performWord_of_ok hw] at h
    exact (exec_answers h).mono fun d hd => ⟨i, rfl, hd⟩
  | error e =>
    rw [performWord_of_error hw] at h
    cases h
    exact s.raise_answers _ (by decide)

theorem Response.word_toNat (c : Code) (d : Word) : (Response.word ⟨c, d⟩).toNat = 2 ^ 16 * c.bits.toNat + d.toNat :=
  toNat_append_eq_add c.bits d

/-! ### The statements -/

/-- Settles O4: a word that decodes has an assigned OP and is selected by a row, so this one is refused. -/
theorem illegalWordOnlyRaisesIllegal : Obligations.IllegalWordOnlyRaisesIllegal := by
  intro s w rest hport hillegal
  rw [step_of_port_op hport]
  cases hw : decode w with
  | error e => exact performWord_of_error hw _
  | ok i =>
    exfalso
    obtain hreserved | hnone := hillegal
    · obtain ⟨hop, -, -⟩ := decode_eq_ok_iff.1 hw
      have := opNumber_lt_ten i
      rw [toNat_ushiftRight_eq_opField] at hreserved
      omega
    · obtain ⟨r, hr, hselects⟩ := exists_row_of_decode_ok hw
      exact hnone r hr hselects

/-- Settles O32: `performWord_answers`, and the decoded operation is the one the word's OP names. -/
theorem rdataIsZeroUnlessARead : Obligations.RdataIsZeroUnlessARead := by
  intro s t w h
  obtain ⟨c, d, hresponse, hok, herror⟩ := performWord_answers h
  refine ⟨c, d, hresponse, fun hc hop => ?_, fun hc hop => ?_, fun hread => ?_, ?_⟩
  · obtain ⟨i, hi, hd⟩ := hok hc
    rw [decode_of_op_rdreg (by rw [opField_toNat, hop]), strict_eq_ok_iff] at hi
    obtain ⟨-, rfl⟩ := hi
    exact hd
  · obtain ⟨i, hi, hd⟩ := hok hc
    rw [decode_of_op_frread (by rw [opField_toNat, hop]), strict_eq_ok_iff] at hi
    obtain ⟨-, rfl⟩ := hi
    rw [← idxField_toNat]
    exact hd
  · by_cases hc : c = .ok
    · obtain ⟨i, hi, hd⟩ := hok hc
      obtain ⟨hop, -, -⟩ := decode_eq_ok_iff.1 hi
      rw [opField_toNat] at hop
      exact hd.eq_zero (fun h3 => hread ⟨hc, .inl (hop.trans h3)⟩) (fun h8 => hread ⟨hc, .inr (hop.trans h8)⟩)
    · exact herror hc
  · rw [Response.word_toNat]
    cases c <;> rfl

end Sys2Proof.Machine
end

section
/-! PROOFS. The checksum engine of 40_checksum.md: the words of an operation from its row of the opcode table, CK_OK and
CKSTAT, the sum of a sequence, and what CKINIT and CKFEED do to the unit. -/

namespace Sys2Proof

/-! ### The words of an operation -/

theorem rowPattern_ushiftRight (op : BitVec 4) : rowPattern op >>> 28 = op.zeroExtend 32 := by
  revert op; decide

/-- The OP of a word is its bits from bit 28 up, so two words that agree there have the same OP. -/
theorem opField_eq_of_ushiftRight_eq {w : OpWord} {op : BitVec 4} (h : w >>> 28 = rowPattern op >>> 28) :
    opField w = op := by
  apply BitVec.eq_of_toNat_eq
  rw [← toNat_ushiftRight_eq_opField, h, rowPattern_ushiftRight, BitVec.zeroExtend, BitVec.toNat_setWidth]
  exact Nat.mod_eq_of_lt (by omega)

/-- A row selects no word with a reserved bit: its mask keeps those bits, and they are zero in its match value. -/
theorem extractLsb'_eq_zero_of_and_rowMask {w : OpWord} {op : BitVec 4} {lo n : Nat} (hn : lo + n ≤ 28)
    (h : w &&& rowMask lo n = rowPattern op) : w.extractLsb' lo n = 0 := by
  refine BitVec.eq_of_getLsbD_eq fun k hk => ?_
  have hbit := congrArg (fun v => v.getLsbD (lo + k)) h
  have hlow : ¬ 28 ≤ lo + k := by omega
  have hreserved : lo ≤ lo + k ∧ lo + k - lo < n := by omega
  rw [BitVec.getLsbD_and, rowMask_getLsbD lo n (by omega), rowPattern_getLsbD op (by omega), decide_eq_false hlow,
    decide_eq_true hreserved, Bool.or_true, Bool.and_true, Bool.false_and] at hbit
  rw [BitVec.getLsbD_extractLsb', hbit, Bool.and_false]
  exact BitVec.getLsbD_zero.symm

theorem reservedLow_add_reservedCount_le (i : Instr) : reservedLow i + reservedCount i ≤ 28 := by
  cases i <;> simp [reservedLow, reservedCount]

end Sys2Proof

namespace Sys2Proof.Machine

/-- An operation's row of the opcode table says which of the words with its OP are performed, and as what: those with zero
reserved bits, with the word's fields as operands; the others are illegal (30_encoding.md R82, R83). -/
theorem wordsMean_row (i : Instr) :
    WordsMean (rowPattern (BitVec.ofNat 4 (opNumber i))) (rowMask (reservedLow i) (reservedCount i))
      (withFieldsOf · i) := by
  intro w s hw
  have hop := opField_eq_of_ushiftRight_eq hw
  have hnumber : (opField w).toNat = opNumber i := by
    have := opNumber_lt_ten i
    rw [hop, BitVec.toNat_ofNat]
    omega
  have hdecode := decode_of_opNumber hnumber
  split
  case isTrue hselected =>
    have hres := extractLsb'_eq_zero_of_and_rowMask (reservedLow_add_reservedCount_le i) hselected
    exact performWord_of_ok (hdecode.trans (strict_of_zero hres _)) s
  case isFalse hrefused =>
    have hres : w.extractLsb' (reservedLow i) (reservedCount i) ≠ 0 := fun hres =>
      hrefused (hop ▸ and_rowMask_eq_rowPattern hres)
    exact performWord_of_error (hdecode.trans (strict_of_ne_zero hres _)) s

/-! ### CK_OK and CKSTAT -/

/-- CKSTAT shows CK_OK just above the kind's bit (10_state.md R45). -/
theorem readReg_ckstat_getLsbD_one (s : State) : (s.readReg .ckstat).getLsbD 1 = s.ckOk := by
  rw [BitVec.getLsbD, readReg_ckstat_toNat]
  cases s.ckKind <;> cases s.ckOk <;> rfl

/-- CK_OK for SUM: a byte was fed, and the last one is the sum of those before it (40_checksum.md R109). -/
theorem State.ckOk_iff_of_sum {s : State} (h : s.ckKind = .sum) :
    s.ckOk = true ↔ 1 ≤ s.ckCnt.toNat ∧ s.ckB1.toNat = s.ckP1.toNat % 2 ^ 8 := by
  simp only [State.ckOk, h, Bool.and_eq_true, decide_eq_true_eq, beq_iff_eq, ← BitVec.toNat_inj,
    BitVec.extractLsb'_toNat, Nat.shiftRight_zero]

/-- CK_OK for CRC: two bytes were fed, and the last two, most recent byte high, are the CRC of those before them (R109). -/
theorem State.ckOk_iff_of_crc {s : State} (h : s.ckKind = .crc) :
    s.ckOk = true ↔ 2 ≤ s.ckCnt.toNat ∧ 2 ^ 8 * s.ckB1.toNat + s.ckB2.toNat = s.ckP2.toNat := by
  simp only [State.ckOk, h, Bool.and_eq_true, decide_eq_true_eq, beq_iff_eq, ← BitVec.toNat_inj, toNat_append_eq_add]

/-! ### The sum of a sequence -/

theorem sumStep_toNat (a b : Byte) : (sumStep a b).toNat = (a.toNat + b.toNat) % 2 ^ 8 := BitVec.toNat_add a b

theorem sum8_append (xs ys : List Byte) : sum8 (xs ++ ys) = ys.foldl sumStep (sum8 xs) := by simp [sum8]

/-- The fold of `sumStep` from any start, so that the induction over the bytes goes through. -/
theorem foldl_sumStep_toNat (bs : List Byte) (a : Byte) :
    (bs.foldl sumStep a).toNat = (a.toNat + (bs.map BitVec.toNat).sum) % 2 ^ 8 := by
  induction bs generalizing a with
  | nil => exact (Nat.mod_eq_of_lt a.isLt).symm
  | cons b bs ih => rw [List.foldl_cons, ih, sumStep_toNat, Nat.mod_add_mod, List.map_cons, List.sum_cons, Nat.add_assoc]

theorem sum8_toNat (bs : List Byte) : (sum8 bs).toNat = (bs.map BitVec.toNat).sum % 2 ^ 8 := by
  rw [sum8, foldl_sumStep_toNat, BitVec.ofNat_eq_ofNat, BitVec.toNat_zero, Nat.zero_add]

/-! ### CKINIT and CKFEED on the unit -/

theorem ckInitial_eq_ite (k : Kind) : ckInitial k = if k = .crc then 0xFFFF else 0x0000 := by cases k <;> rfl

/-- For SUM the accumulator's low byte takes the byte and its high byte is cleared (40_checksum.md R108). -/
theorem ckAccumulate_sum_toNat (acc : Word) (b : Byte) :
    (ckAccumulate .sum acc b).toNat = (acc.toNat % 2 ^ 8 + b.toNat) % 2 ^ 8 := by
  have hfits : (sumStep (acc.extractLsb' 0 8) b).toNat < 2 ^ 16 := by omega
  rw [ckAccumulate, BitVec.zeroExtend, BitVec.toNat_setWidth, Nat.mod_eq_of_lt hfits, sumStep_toNat,
    BitVec.extractLsb'_toNat, Nat.shiftRight_zero]

/-- The count goes up by one and stays at 0xFFFF (R108). -/
theorem ckCountNext_toNat (cnt : Word) : (ckCountNext cnt).toNat = min (cnt.toNat + 1) 0xFFFF := by
  rw [ckCountNext]
  split
  case isTrue hfull => rw [hfull]; rfl
  case isFalse hroom => bv_omega

/-! ### The statements -/

/-- Settles O18: CK_OK for each kind, and CKSTAT is in every configuration's register file. -/
theorem ckOkFormula : Obligations.CkOkFormula := by
  intro s
  refine ⟨_, exec_rdreg_global (k := 0x09) rfl s, by rw [readReg_ckstat_getLsbD_one], ?_⟩
  cases hkind : s.ckKind with
  | sum => simp only [s.ckOk_iff_of_sum hkind, true_and, reduceCtorEq, false_and, or_false]
  | crc => simp only [s.ckOk_iff_of_crc hkind, true_and, reduceCtorEq, false_and, false_or]

/-- Settles O35: CKINIT's row of the opcode table, and its effect with the initial value written out. -/
theorem ckinitResult : Obligations.CkinitResult :=
  ⟨wordsMean_row (.ckinit .sum), fun k s => by rw [← ckInitial_eq_ite]; rfl⟩

/-- Settles O36: CKFEED's row of the opcode table, the accumulator for each kind, and the saturating count. -/
theorem ckfeedResult : Obligations.CkfeedResult := by
  refine ⟨wordsMean_row (.ckfeed 0), fun b s => ⟨_, rfl, rfl, fun hcrc => ?_, fun hsum => ?_, ?_⟩⟩
  · rw [State.respond_ckAcc, hcrc, ckAccumulate]
  · rw [State.respond_ckAcc, hsum, ckAccumulate_sum_toNat]
  · exact ckCountNext_toNat s.ckCnt

/-- Settles O37: `sum8` is the fold of `sumStep`, and the fold adds modulo 256. -/
theorem sumIsSumModulo256 : Obligations.SumIsSumModulo256 :=
  ⟨sum8_toNat, sum8_nil, sumStep_toNat, fun bs b => sum8_append bs [b]⟩

end Sys2Proof.Machine
end

section
/-! PROOFS. The reassembler of 41_reassembler.md: what PUSH answers in each state of the FSM and in each branch of
HDRBYTE and ACCBYTE, a chunk start as a header match at byte 0, the frame that a last byte completes, and RQ under every
operation. -/

namespace Sys2Proof.Machine

/-! ### PUSH in each state of the FSM -/

theorem exec_push_of_ok {s t : State} {sof : Bool} {b : Byte} (h : s.pushByte sof b = .ok t) :
    exec (.push sof b) s = .next (t.respond .ok 0x0000) :=
  execPush_eq_next_iff.2 ⟨t, h, rfl⟩

/-- PUSH depends on the state and its operands through its byte procedures only. -/
theorem exec_push_congr {s t : State} {sof sof' : Bool} {b b' : Byte} (h : s.pushByte sof b = t.pushByte sof' b') :
    exec (.push sof b) s = exec (.push sof' b') t := by
  simp only [exec, execPush, h]

theorem State.clearRq_of_rq_false {s : State} (h : s.rq = false) : s.clearRq = s := by
  rw [State.clearRq, ← h]

theorem State.pushByte_of_idle_drop {s : State} {sof : Bool} (hidle : s.fsm = .idle) (hsof : sof = false)
    (hrq : s.rq = false) (b : Byte) : s.pushByte sof b = .ok s :=
  State.pushByte_eq_ok_iff.2 (.inl ⟨hidle, hsof, hrq, (State.clearRq_of_rq_false hrq).symm⟩)

theorem State.pushByte_of_idle_start {s : State} {sof : Bool} (hidle : s.fsm = .idle)
    (hstart : sof = true ∨ s.rq = true) (b : Byte) : s.pushByte sof b = s.clearRq.start b := by
  have hsof : (sof || s.rq) = true := by simpa using hstart
  simp [State.pushByte, hidle, hsof]

theorem State.pushByte_of_hdr {s : State} (h : s.fsm = .hdr) (sof : Bool) (b : Byte) :
    s.pushByte sof b = s.clearRq.hdrByte b (sof || s.rq) := by
  simp [State.pushByte, h]

theorem State.pushByte_of_accum {s : State} (h : s.fsm = .accum) (sof : Bool) (b : Byte) :
    s.pushByte sof b = s.clearRq.accByte b (sof || s.rq) := by
  simp [State.pushByte, h]

/-! ### START -/

/-- START is HDRBYTE from the seeded state: at k = 0 a mismatch examines nothing afresh, whatever the SOF (R123,
R124). -/
theorem State.start_eq_hdrByte_seed (s : State) (b : Byte) (sof : Bool) : s.start b = s.seed.hdrByte b sof := by
  unfold State.start State.hdrByte
  cases s.seed.hdrResult b with
  | noise | advance => rfl
  | mismatch => simp

/-- The candidates START seeds are determined by their bits: a slot that does not exist is not eligible. -/
theorem State.seed_eq_of_bits {s : State} (hlegal : s.Legal) {m n : BitVec 8}
    (hm : ∀ j, m.getLsbD j = true ↔ s.eligible j = true)
    (hn : ∀ j, n.getLsbD j = true ↔ s.eligible j = true ∧ 1 ≤ (s.slotAt j).nhlen) :
    s.seed = { s with candr := m, candn := n, pos := 0, fsm := .hdr } := by
  have hexists : ∀ j, s.eligible j = true → j < s.nschema ∧ j < 8 := fun j hj =>
    have hlt := State.lt_nschema_of_eligible hj
    ⟨hlt, Nat.lt_of_lt_of_le hlt hlegal.2.1⟩
  have hcandr : (slotSet s.nschema fun j => s.eligible j) = m := by
    refine BitVec.eq_of_getLsbD_eq fun j _ => Bool.eq_iff_iff.2 ?_
    rw [slotSet_getLsbD, hm]
    simpa using fun he => (hexists j he).symm
  have hcandn : (slotSet s.nschema fun j => s.eligible j && decide (1 ≤ (s.slotAt j).nhlen)) = n := by
    refine BitVec.eq_of_getLsbD_eq fun j _ => Bool.eq_iff_iff.2 ?_
    rw [slotSet_getLsbD, hn]
    simpa using fun he _ => (hexists j he).symm
  rw [State.seed, hcandr, hcandn]

/-! ### HDRBYTE, by the candidates that still match -/

theorem State.noiseMatches_getLsbD {s : State} {b : Byte} {j : Nat} :
    (s.noiseMatches b).getLsbD j = true ↔ s.NoiseStillMatches b j :=
  State.noiseMatches_iff.trans ⟨And.right, fun h => ⟨BitVec.lt_of_getLsbD h.1, h⟩⟩

theorem State.responseMatches_getLsbD {s : State} {b : Byte} {j : Nat} :
    (s.responseMatches b).getLsbD j = true ↔ s.ResponseStillMatches b j :=
  State.responseMatches_iff.trans ⟨And.right, fun h => ⟨BitVec.lt_of_getLsbD h.1, h⟩⟩

theorem State.hdrResult_eq_noise {s : State} {b : Byte} :
    s.hdrResult b = .noise ↔ ∃ j, s.NoiseStillMatches b j ∧ (s.slotAt j).nhlen = s.pos.toNat + 1 := by
  simp only [State.hdrResult_eq_noise_iff, State.noiseComplete_isSome_iff, State.noiseMatches_getLsbD]

theorem State.hdrResult_eq_mismatch {s : State} {b : Byte} :
    s.hdrResult b = .mismatch ↔ ∀ j, ¬ s.NoiseStillMatches b j ∧ ¬ s.ResponseStillMatches b j := by
  simp only [State.hdrResult_eq_mismatch_iff, mask_eq_zero_iff, ← Bool.not_eq_true, State.noiseMatches_getLsbD,
    State.responseMatches_getLsbD, forall_and]

/-- The match advances when no noise header is complete and a candidate still matches. -/
theorem State.hdrResult_eq_advance {s : State} {b : Byte} {j : Nat}
    (hnoise : ¬ ∃ j, s.NoiseStillMatches b j ∧ (s.slotAt j).nhlen = s.pos.toNat + 1)
    (hmatch : s.NoiseStillMatches b j ∨ s.ResponseStillMatches b j) : s.hdrResult b = .advance := by
  cases hres : s.hdrResult b with
  | noise => exact absurd (State.hdrResult_eq_noise.1 hres) hnoise
  | mismatch => exact absurd (State.hdrResult_eq_mismatch.1 hres j) (by tauto)
  | advance => rfl

theorem State.responseComplete_eq_some {s : State} {b : Byte} {j : Nat} :
    s.responseComplete b = some j ↔
      s.ResponseStillMatches b j ∧ (s.slotAt j).rhlen = s.pos.toNat + 1 ∧
        ∀ i < j, s.ResponseStillMatches b i → (s.slotAt i).rhlen ≠ s.pos.toNat + 1 := by
  simp only [State.responseComplete_eq_some_iff, State.responseMatches_getLsbD]

theorem State.responseComplete_eq_none {s : State} {b : Byte} :
    s.responseComplete b = none ↔ ¬ ∃ j, s.ResponseStillMatches b j ∧ (s.slotAt j).rhlen = s.pos.toNat + 1 := by
  simp only [State.responseComplete_eq_none_iff, State.responseMatches_getLsbD, not_exists, not_and, ne_eq]

/-- The header match does not read RQ, so clearing it first does not change the branch. -/
theorem State.hdrResult_clearRq (s : State) (b : Byte) : s.clearRq.hdrResult b = s.hdrResult b := rfl

/-- PUSH in HDR when no candidate is left: the mismatch drop, and then the byte as a chunk start if it is one and not
the one that began this match. -/
theorem State.pushByte_of_mismatch {s : State} {sof : Bool} {b : Byte} (hhdr : s.fsm = .hdr)
    (hres : s.hdrResult b = .mismatch) :
    s.pushByte sof b =
      if (sof = true ∨ s.rq = true) ∧ s.pos ≠ 0 then s.clearRq.dropMismatch.start b
      else .ok s.clearRq.dropMismatch := by
  have hlate : 0 < s.pos.toNat ↔ s.pos ≠ 0 := by rw [Nat.pos_iff_ne_zero, ne_eq, ne_eq, ← BitVec.toNat_inj]; rfl
  rw [State.pushByte_of_hdr hhdr, State.hdrByte, State.hdrResult_clearRq, hres]
  exact if_congr (by rw [Bool.and_eq_true, Bool.or_eq_true, decide_eq_true_eq, State.clearRq_pos, hlate]) rfl rfl

/-- The state with a byte appended to the current frame. -/
def State.appended (s : State) (b : Byte) : State :=
  { s with rbuf := s.rbuf.write s.pos.toNat b, pos := s.pos + 1 }

theorem State.append_of_lt {s : State} (h : s.pos.toNat < s.bufmax) (b : Byte) : s.append b = .ok (s.appended b) :=
  State.append_eq_ok_iff.2 ⟨h, rfl⟩

/-- PUSH in HDR when the match advances: the byte has a place in RBUF, and `responseComplete` says whether the
header ends with it. -/
theorem exec_push_of_hdr_advance {s t : State} {sof : Bool} {b : Byte} (hlegal : s.Legal) (hhdr : s.fsm = .hdr)
    (hres : s.hdrResult b = .advance)
    (ht : (∃ j, s.responseComplete b = some j ∧ t = (s.clearRq.appended b).toAccum j) ∨
      (s.responseComplete b = none ∧
        t = (s.clearRq.appended b).keepCandidates (s.noiseMatches b) (s.responseMatches b))) :
    exec (.push sof b) s = .next (t.respond .ok 0x0000) := by
  have hroom : s.pos.toNat < s.bufmax := by
    have := State.pos_lt_four_of_advance hres
    have := hlegal.2.2.1
    omega
  refine exec_push_of_ok ((State.pushByte_of_hdr hhdr sof b).trans ?_)
  exact State.hdrByte_eq_ok_iff.2 <| .inr <| .inr <| .inr
    ⟨hres, State.hdrAdvance_eq_ok_iff.2 ⟨_, State.append_of_lt (s := s.clearRq) hroom b, ht⟩⟩

/-! ### ACCBYTE -/

/-- PUSH in ACCUM when EXPLEN no longer admits a byte: the overflow drop, and then the byte as a chunk start if it is
one. -/
theorem State.pushByte_of_overflow {s : State} {sof : Bool} (haccum : s.fsm = .accum)
    (hover : s.wellFormed s.slot.toNat = false ∨ (s.slotAt s.slot.toNat).explen.toNat ≤ s.pos.toNat) (b : Byte) :
    s.pushByte sof b =
      if sof = true ∨ s.rq = true then s.clearRq.dropOverflow.start b else .ok s.clearRq.dropOverflow := by
  rw [State.pushByte_of_accum haccum]
  exact (if_pos hover).trans (if_congr Bool.or_eq_true_iff rfl rfl)

/-- PUSH in ACCUM when EXPLEN admits the byte: it is appended, and completes the frame when it is the last. -/
theorem exec_push_of_accum_append {s t : State} {sof : Bool} {b : Byte} (haccum : s.fsm = .accum)
    (hwf : s.wellFormed s.slot.toNat = true) (hpos : s.pos.toNat < (s.slotAt s.slot.toNat).explen.toNat)
    (ht : (s.pos.toNat + 1 = (s.slotAt s.slot.toNat).explen.toNat ∧
        t = (s.clearRq.appended b).complete s.slot.toNat (s.slotAt s.slot.toNat).explen.toNat) ∨
      (s.pos.toNat + 1 ≠ (s.slotAt s.slot.toNat).explen.toNat ∧ t = s.clearRq.appended b)) :
    exec (.push sof b) s = .next (t.respond .ok 0x0000) := by
  have hroom : s.pos.toNat < s.bufmax := by
    have := (Slot.wellFormed_iff.1 hwf).2.2.2.2
    omega
  refine exec_push_of_ok ((State.pushByte_of_accum haccum sof b).trans ?_)
  exact State.accByte_eq_ok_iff.2 (.inr ⟨hwf, hpos, _, State.append_of_lt (s := s.clearRq) hroom b, ht⟩)

/-- The end of a completed frame with the output free: the frame is emitted. -/
theorem State.complete_of_free {s : State} (h : s.outv = false) (j len : Nat) :
    s.complete j len =
      { s with obuf := s.rbuf.copy s.obuf len, outLen := BitVec.ofNat 16 len, outSchema := BitVec.ofNat 3 j,
               outCkok := validate (s.slotAt j).kind (s.rbuf.bytes len), outv := true,
               fsm := .idle, pos := 0, slot := 0, candr := 0, candn := 0, rq := true } := by
  rw [State.complete, State.emit_of_free h]
  rfl

/-- The end of a completed frame with a frame held: the new one is lost. -/
theorem State.complete_of_held {s : State} (h : s.outv = true) (j len : Nat) :
    s.complete j len =
      { s with ovr := true, fsm := .idle, pos := 0, slot := 0, candr := 0, candn := 0, rq := true } := by
  rw [State.complete, State.emit_of_held h]
  rfl

/-- The frame in RBUF after one more byte. -/
theorem Memory.bytes_write_succ {m : Memory} (hm : m.wf) (n : Nat) (b : Byte) :
    (m.write n b).bytes (n + 1) = m.bytes n ++ [b] := by
  have hbefore : (m.write n b).bytes n = m.bytes n :=
    Memory.bytes_congr fun i hi => Memory.read_write_other hm (Nat.ne_of_lt hi) b
  rw [← hbefore, Memory.bytes, Memory.bytes, List.range_succ, List.map_append, List.map_singleton,
    Memory.read_write_same hm]

/-! ### RQ under every operation -/

theorem State.hdrAdvance_rq {s t : State} {b : Byte} (h : s.hdrAdvance b = .ok t) : t.rq = s.rq := by
  obtain ⟨u, hu, ⟨j, -, rfl⟩ | ⟨-, rfl⟩⟩ := State.hdrAdvance_eq_ok_iff.1 h <;>
    · obtain ⟨-, rfl⟩ := State.append_eq_ok_iff.1 hu
      rfl

theorem State.start_rq {s t : State} {b : Byte} (h : s.start b = .ok t) : t.rq = s.rq := by
  obtain ⟨-, rfl⟩ | ⟨-, rfl⟩ | ⟨-, h⟩ := State.start_eq_ok_iff.1 h
  · rfl
  · rfl
  · exact (State.hdrAdvance_rq h).trans s.seed_rq

theorem State.hdrByte_rq {s t : State} {b : Byte} {sof : Bool} (h : s.hdrByte b sof = .ok t) : t.rq = s.rq := by
  obtain ⟨-, rfl⟩ | ⟨-, -, rfl⟩ | ⟨-, -, -, h⟩ | ⟨-, h⟩ := State.hdrByte_eq_ok_iff.1 h
  · rfl
  · rfl
  · exact (State.start_rq h).trans s.dropMismatch_rq
  · exact State.hdrAdvance_rq h

/-- Only ACCBYTE can leave RQ at 1: the other byte procedures keep it, and PUSH has cleared it before. -/
theorem State.pushByte_rq {s t : State} {sof : Bool} {b : Byte} (h : s.pushByte sof b = .ok t) :
    s.fsm = .accum ∨ t.rq = false := by
  obtain ⟨-, -, -, rfl⟩ | ⟨-, -, h⟩ | ⟨-, h⟩ | ⟨haccum, -⟩ := State.pushByte_eq_ok_iff.1 h
  · exact .inr rfl
  · exact .inr (State.start_rq h)
  · exact .inr (State.hdrByte_rq h)
  · exact .inl haccum

@[simp] theorem State.writeReg_rq (s : State) (d : Word) (r : Reg) : (s.writeReg d r).rq = s.rq := by
  cases r <;> rfl

/-! ### The statements -/

/-- Settles O28: CANCEL's row of the opcode table, and its effect. -/
theorem cancelResult : Obligations.CancelResult :=
  ⟨wordsMean_row .cancel, fun _ => rfl⟩

/-- Settles O43: START is HDRBYTE from the seeded state, which is the state of the statement. -/
theorem startSeedsTheCandidates : Obligations.StartSeedsTheCandidates := by
  intro s sof b hlegal hidle
  refine ⟨fun hsof hrq => exec_push_of_ok (State.pushByte_of_idle_drop hidle hsof hrq b), fun hstart m n hm hn => ?_⟩
  refine exec_push_congr ?_
  rw [State.pushByte_of_idle_start hidle hstart, State.pushByte_of_hdr rfl, State.start_eq_hdrByte_seed _ b true,
    State.seed_eq_of_bits (s := s.clearRq) hlegal hm hn]
  rfl

/-- Settles O44: the branch HDRBYTE takes, read off the candidates that still match. -/
theorem headerByteRule : Obligations.HeaderByteRule := by
  intro s sof b hlegal hhdr hwf
  have hread := fun i => Memory.read_write hwf s.pos.toNat i b
  refine ⟨fun hnoise => ?_, fun hnoise j hj hlen hmin => ?_, fun hnone hkeep => ?_, fun hnone hstart hpos => ?_,
    fun hnoise hresp hsome => ?_⟩
  · exact exec_push_of_ok ((State.pushByte_of_hdr hhdr sof b).trans
      (State.hdrByte_eq_ok_iff.2 (.inl ⟨State.hdrResult_eq_noise.2 hnoise, rfl⟩)))
  · have hcomplete := State.responseComplete_eq_some.2 ⟨hj, hlen, hmin⟩
    exact ⟨_, exec_push_of_hdr_advance hlegal hhdr (State.hdrResult_eq_advance hnoise (.inr hj))
      (.inl ⟨j, hcomplete, rfl⟩), rfl, hread⟩
  · have hnostart : ¬ ((sof = true ∨ s.rq = true) ∧ s.pos ≠ 0) := by
      rcases hkeep with ⟨hsof, hrq⟩ | hpos
      · simp [hsof, hrq]
      · simp [hpos]
    exact exec_push_of_ok
      ((State.pushByte_of_mismatch hhdr (State.hdrResult_eq_mismatch.2 hnone)).trans (if_neg hnostart))
  · refine exec_push_congr ?_
    rw [State.pushByte_of_mismatch hhdr (State.hdrResult_eq_mismatch.2 hnone), if_pos ⟨hstart, hpos⟩,
      State.pushByte_of_idle_start rfl (.inl rfl)]
    rfl
  · obtain ⟨j, hj⟩ := hsome
    exact ⟨_, exec_push_of_hdr_advance hlegal hhdr (State.hdrResult_eq_advance hnoise hj)
      (.inr ⟨State.responseComplete_eq_none.2 hresp, rfl⟩), rfl, fun _ => State.noiseMatches_getLsbD,
      fun _ => State.responseMatches_getLsbD, hread⟩

/-- Settles O45: the overflow drop or the append, and at the last byte EMIT with the output free or held. -/
theorem accumulateByteRule : Obligations.AccumulateByteRule := by
  rintro s sof b x - haccum hrbuf hobuf rfl
  refine ⟨fun hover => ⟨fun hsof hrq => ?_, fun hstart => ?_⟩, fun hwf hpos => ?_⟩
  · have hnostart : ¬ (sof = true ∨ s.rq = true) := by simp [hsof, hrq]
    have hpush := (State.pushByte_of_overflow haccum hover b).trans (if_neg hnostart)
    rw [State.clearRq_of_rq_false hrq] at hpush
    exact exec_push_of_ok hpush
  · refine exec_push_congr ?_
    rw [State.pushByte_of_overflow haccum hover, if_pos hstart, State.pushByte_of_idle_start rfl (.inl rfl)]
    rfl
  · have hread := fun i => Memory.read_write hrbuf s.pos.toNat i b
    by_cases hlast : s.pos.toNat + 1 = (s.slotAt s.slot.toNat).explen.toNat
    case neg =>
      exact ⟨_, exec_push_of_accum_append haccum hwf hpos (.inr ⟨hlast, rfl⟩), hread, fun _ => rfl,
        fun h => absurd h hlast, fun h => absurd h hlast⟩
    case pos =>
      have hpush := exec_push_of_accum_append (sof := sof) (b := b) haccum hwf hpos (.inl ⟨hlast, rfl⟩)
      have hframe : (s.clearRq.appended b).rbuf.bytes (s.slotAt s.slot.toNat).explen.toNat =
          s.rbuf.bytes s.pos.toNat ++ [b] := by
        rw [← hlast]
        exact Memory.bytes_write_succ hrbuf s.pos.toNat b
      have hnotmore : ¬ s.pos.toNat + 1 < (s.slotAt s.slot.toNat).explen.toNat := by omega
      by_cases hout : s.outv = true
      case pos =>
        rw [State.complete_of_held (s := s.clearRq.appended b) hout] at hpush
        exact ⟨_, hpush, hread, fun h => absurd h hnotmore, fun _ h => absurd hout (Bool.eq_false_iff.1 h),
          fun _ _ => rfl⟩
      case neg =>
        have hfree : (s.clearRq.appended b).outv = false := Bool.eq_false_iff.2 hout
        rw [State.complete_of_free hfree, hframe, BitVec.ofNat_toNat, BitVec.setWidth_eq, BitVec.ofNat_toNat,
          BitVec.setWidth_eq] at hpush
        exact ⟨_, hpush, hread, fun h => absurd h hnotmore,
          fun _ _ => ⟨rfl, fun i => Memory.read_copy _ hobuf _ i⟩, fun _ h => absurd h hout⟩

/-- Settles O46: a completed frame, a PUSH in IDLE with RQ at 1, and RQ under every operation. -/
theorem requeueRule : Obligations.RequeueRule := by
  refine ⟨fun s sof b _ haccum hwf hlast => ?_, fun s sof b hidle hrq => ?_, fun i s t h => ?_⟩
  · exact ⟨_, exec_push_of_accum_append haccum hwf (by omega) (.inl ⟨hlast, rfl⟩), rfl, rfl⟩
  · exact exec_push_congr ((State.pushByte_of_idle_start hidle (.inr hrq) b).trans
      (State.pushByte_of_idle_start (s := s.clearRq) hidle (.inl rfl) b).symm)
  · cases i with
    | push sof b =>
      obtain ⟨u, hu, rfl⟩ := execPush_eq_next_iff.1 h
      exact fun hrq => (State.pushByte_rq hu).resolve_right (by simpa using hrq)
    | wrreg a d =>
      obtain ⟨-, rfl⟩ | ⟨r, -, -, rfl⟩ | ⟨r, -, -, rfl⟩ := execWrreg_eq_next_iff.1 h
      · rfl
      · rfl
      · exact s.writeReg_rq d r
    | rdreg a => obtain ⟨-, rfl⟩ | ⟨r, -, rfl⟩ := execRdreg_eq_next_iff.1 h <;> rfl
    | release => obtain ⟨-, rfl⟩ | ⟨-, rfl⟩ := execRelease_eq_next_iff.1 h <;> rfl
    | frread x => obtain ⟨-, rfl⟩ | ⟨-, -, rfl⟩ | ⟨-, -, -, rfl⟩ := execFrread_eq_next_iff.1 h <;> rfl
    | nop | cancel | ckinit k | ckfeed b | sreset => cases h; rfl

end Sys2Proof.Machine
end

section
/-! PROOFS. The host access operations of 42_host_access.md: what FRREAD and RELEASE answer with and without a held frame,
and what WRREG writes at every address. -/

namespace Sys2Proof.Machine

/-! ### FRREAD and RELEASE -/

theorem exec_frread_of_free {s : State} (h : s.outv = false) (i : Word) :
    exec (.frread i) s = .next (s.raise .noFrame) :=
  execFrread_eq_next_iff.2 (.inl ⟨h, rfl⟩)

theorem exec_frread_of_past_end {s : State} {i : Word} (h : s.outv = true) (hi : s.outLen.toNat ≤ i.toNat) :
    exec (.frread i) s = .next (s.raise .range) :=
  execFrread_eq_next_iff.2 (.inr (.inl ⟨h, hi, rfl⟩))

/-- A byte of the held frame exists in OBUF because the frame fits the buffer, so the read has no fault. -/
theorem exec_frread_of_held {s : State} {i : Word} (h : s.outv = true) (hi : i.toNat < s.outLen.toNat)
    (hfits : s.outLen.toNat ≤ s.bufmax) :
    exec (.frread i) s = .next (s.respond .ok ((s.obuf.read i.toNat).zeroExtend 16)) :=
  execFrread_eq_next_iff.2 (.inr (.inr ⟨h, hi, hi.trans_le hfits, rfl⟩))

theorem exec_release_of_free {s : State} (h : s.outv = false) : exec .release s = .next (s.raise .noFrame) :=
  execRelease_eq_next_iff.2 (.inl ⟨h, rfl⟩)

theorem exec_release_of_held {s : State} (h : s.outv = true) :
    exec .release s =
      .next (State.respond { s with outv := false, outLen := 0, outSchema := 0, outCkok := false } .ok 0x0000) :=
  execRelease_eq_next_iff.2 (.inr ⟨h, rfl⟩)

/-! ### WRREG, by the kind of the address -/

theorem exec_wrreg_of_unmapped {s : State} {a : BitVec 8} (h : Unmapped s.nschema a.toNat) (d : Word) :
    exec (.wrreg a d) s = .next (s.raise .badAddr) :=
  execWrreg_eq_next_iff.2 (.inl ⟨regAt_eq_none_iff.2 h, rfl⟩)

theorem exec_wrreg_of_writable {s : State} {a : BitVec 8} {r : Reg} (h : regAt s.nschema a = some r)
    (hr : r.readOnly = false) (d : Word) : exec (.wrreg a d) s = .next ((s.writeReg d r).respond .ok 0x0000) :=
  execWrreg_eq_next_iff.2 (.inr (.inr ⟨r, h, hr, rfl⟩))

/-- The read-only addresses of 10_state.md R24 are mapped, to registers that are read-only. -/
theorem globalReg_of_readOnlyAddr {k : Nat} (h : ReadOnlyAddr k) :
    ∃ r, globalReg k = some r ∧ r.readOnly = true := by
  have hall : ∀ k < 0x0D, ReadOnlyAddr k → (globalReg k).map Reg.readOnly = some true := by decide
  exact Option.map_eq_some_iff.1 (hall k (by omega) h)

theorem exec_wrreg_of_readOnlyAddr {a : BitVec 8} (h : ReadOnlyAddr a.toNat) (s : State) (d : Word) :
    exec (.wrreg a d) s = .next (s.raise .readOnly) := by
  obtain ⟨r, hr, hreadOnly⟩ := globalReg_of_readOnlyAddr h
  simpa using exec_wrreg_global_readOnly hr hreadOnly s d

/-- Replacing an existing slot by a change of itself is the change made in place. -/
theorem State.setSlot_slotAt {s : State} {j : Nat} (hj : j < s.nschema) (f : Slot → Slot) :
    s.setSlot j (f (s.slotAt j)) = { s with slots := s.slots.modify j f } := by
  have hslot : s.slots[j]? = some (s.slotAt j) := by
    rw [State.slotAt, List.getD_eq_getElem?_getD, List.getElem?_eq_getElem hj, Option.getD_some]
  rw [State.setSlot, List.modify_eq_set_getElem?, hslot]
  rfl

/-- WRREG of a slot register changes that slot, as `f` says, and answers OK. -/
theorem exec_wrreg_slot {s : State} {a : BitVec 8} {d : Word} {j k : Nat} {r : Reg} {f : Slot → Slot}
    (hj : j < s.nschema) (hr : slotReg j k = some r) (hreadOnly : r.readOnly = false)
    (hwrite : s.writeReg d r = s.setSlot j (f (s.slotAt j))) (ha : a.toNat = 0x10 + 8 * j + k) :
    exec (.wrreg a d) s = .next { s with slots := s.slots.modify j f, response := some ⟨.ok, 0x0000⟩ } := by
  have hk : ¬ 6 ≤ k := fun hk => by rw [slotReg_eq_none_iff.2 hk] at hr; cases hr
  have hreg : regAt s.nschema a = some r := (regAt_slot ha (by omega) hj).trans hr
  rw [exec_wrreg_of_writable hreg hreadOnly, hwrite, State.setSlot_slotAt hj]
  rfl

/-! ### The statements -/

/-- Settles O12: NOP's row of the opcode table; its meaning is the response alone. -/
theorem nopResult : Obligations.NopResult :=
  ⟨wordsMean_row .nop, fun _ => rfl⟩

/-- Settles O9: SRESET's row of the opcode table; its meaning is the reset event, then the response. -/
theorem sresetResetsEverything : Obligations.SresetResetsEverything :=
  ⟨wordsMean_row .sreset, fun s => ⟨s.resetEvent.respond .ok 0x0000, rfl, rfl⟩⟩

/-- Settles O25: FRREAD's row of the opcode table, and its three cases. -/
theorem frreadResult : Obligations.FrreadResult :=
  ⟨wordsMean_row (.frread 0), fun _ i =>
    ⟨fun hfree => exec_frread_of_free hfree i, exec_frread_of_past_end, exec_frread_of_held⟩⟩

/-- Settles O27: RELEASE's row of the opcode table, and its two cases. -/
theorem releaseResult : Obligations.ReleaseResult :=
  ⟨wordsMean_row .release, fun _ => ⟨exec_release_of_free, exec_release_of_held⟩⟩

/-- Settles O22: WRREG's row of the opcode table, and the write at an address of each kind. -/
theorem wrregOfEveryAddress : Obligations.WrregOfEveryAddress := by
  refine ⟨wordsMean_row (.wrreg 0 0), fun s a d => ⟨fun hunmapped => exec_wrreg_of_unmapped hunmapped d,
    fun hreadOnly => exec_wrreg_of_readOnlyAddr hreadOnly s d, ?status, ?ie, fun j hj => ?slot⟩⟩
  case status =>
    rintro rfl
    exact exec_wrreg_of_writable (regAt_of_globalReg (k := 0x02) rfl s.nschema) rfl d
  case ie =>
    rintro rfl
    exact exec_wrreg_of_writable (regAt_of_globalReg (k := 0x03) rfl s.nschema) rfl d
  case slot =>
    exact ⟨exec_wrreg_slot hj rfl rfl rfl, exec_wrreg_slot hj rfl rfl rfl, exec_wrreg_slot hj rfl rfl rfl,
      exec_wrreg_slot hj rfl rfl rfl, exec_wrreg_slot hj rfl rfl rfl, exec_wrreg_slot hj rfl rfl rfl⟩

end Sys2Proof.Machine
end

section
/-! PROOFS. The errors and the interrupt of 60_exceptions.md: the well-formed words as those that decode, the one code of
an operation and what raising it changes, that no operation stops, and irq as the pending bits of STATUS that IE enables. -/

namespace Sys2Proof

/-! ### The well-formed words -/

/-- An operation's row of the opcode table (30_encoding.md R82). -/
def rowOf (i : Instr) : OpRow :=
  ⟨i.mnemonic, rowPattern (BitVec.ofNat 4 (opNumber i)), rowMask (reservedLow i) (reservedCount i)⟩

/-- One operation for each OP value, in the order of the table. -/
def rowOperations : List Instr :=
  [.nop, .push false 0, .wrreg 0 0, .rdreg 0, .cancel, .release, .ckinit .sum, .ckfeed 0, .frread 0, .sreset]

theorem opTable_eq_map_rowOf : opTable = rowOperations.map rowOf := by decide

/-- A row selects only words with its OP: its mask keeps the OP bits. -/
theorem opField_eq_of_and_rowMask {w : OpWord} {op : BitVec 4} {lo n : Nat} (h : w &&& rowMask lo n = rowPattern op) :
    opField w = op := by
  refine BitVec.eq_of_getLsbD_eq fun k hk => ?_
  have hbit := congrArg (fun v => v.getLsbD (28 + k)) h
  have hop : 28 ≤ 28 + k := by omega
  rw [BitVec.getLsbD_and, rowMask_getLsbD lo n (by omega), rowPattern_getLsbD op (by omega), decide_eq_true hop,
    Bool.true_or, Bool.and_true, Bool.true_and, Nat.add_sub_cancel_left] at hbit
  rw [opField, BitVec.getLsbD_extractLsb', hbit, decide_eq_true hk, Bool.true_and]

/-- A row selects the words that decode to its operation. -/
theorem rowOf_selects_iff {w : OpWord} {i : Instr} : (rowOf i).selects w = true ↔ decode w = .ok (withFieldsOf w i) := by
  rw [OpRow.selects, beq_iff_eq, decode_eq_ok_iff, opNumber_withFieldsOf, reservedLow_withFieldsOf,
    reservedCount_withFieldsOf, withFieldsOf_withFieldsOf, eq_self, and_true]
  have hnumber := opNumber_lt_ten i
  constructor
  · intro hselects
    refine ⟨?_, extractLsb'_eq_zero_of_and_rowMask (reservedLow_add_reservedCount_le i) hselects⟩
    rw [opField_eq_of_and_rowMask hselects, BitVec.toNat_ofNat]
    omega
  · rintro ⟨hop, hres⟩
    rw [rowOf, ← hop, BitVec.ofNat_toNat, BitVec.setWidth_eq]
    exact and_rowMask_eq_rowPattern hres

/-- The rows have distinct OP values, so among them one is selected exactly when the word decodes (R87). -/
theorem wordWf_iff_decode_ok {w : OpWord} : wordWf w = true ↔ ∃ i, decode w = .ok i := by
  rw [wordWf, beq_iff_eq, rowsSelecting, opTable_eq_map_rowOf, List.filter_map, List.length_map]
  constructor
  · intro hone
    obtain ⟨i, hi⟩ := List.exists_mem_of_length_pos (hone ▸ Nat.one_pos)
    exact ⟨_, rowOf_selects_iff.1 (List.mem_filter.1 hi).2⟩
  · rintro ⟨j, hj⟩
    have hselects : ∀ i ∈ rowOperations, ((rowOf i).selects w) = (opNumber i == opNumber j) := fun i _ => by
      obtain ⟨hop, -, -⟩ := decode_eq_ok_iff.1 hj
      rw [Bool.eq_iff_iff, rowOf_selects_iff, beq_iff_eq, hj, Except.ok.injEq]
      constructor
      · intro h
        rw [h, opNumber_withFieldsOf]
      · intro h
        rw [decode_of_opNumber (hop.trans h.symm), strict_eq_ok_iff] at hj
        exact hj.2.symm
    have hone : ∀ k < 10, (rowOperations.filter fun i => opNumber i == k).length = 1 := by decide
    rw [← hone _ (opNumber_lt_ten j)]
    exact congrArg List.length (List.filter_congr hselects)

theorem addrField_toNat (w : OpWord) : (addrField w).toNat = w.toNat / 2 ^ 20 % 2 ^ 8 := by
  rw [addrField, BitVec.extractLsb'_toNat, Nat.shiftRight_eq_div_pow]

end Sys2Proof

namespace Sys2Proof.Machine

/-! ### The code of an operation -/

/-- The registers of a slot can be written. -/
theorem readOnly_of_slotReg {j k : Nat} {r : Reg} (h : slotReg j k = some r) : r.readOnly = false := by
  have hk : k < 6 := Nat.lt_of_not_le fun hk => by rw [slotReg_eq_none_iff.2 hk] at h; cases h
  interval_cases k <;> cases h <;> rfl

/-- An address that is neither unmapped nor read-only is that of a register that can be written (10_state.md R24). -/
theorem exists_writable_regAt {n : Nat} {a : BitVec 8} (hmapped : ¬ Unmapped n a.toNat)
    (hwritable : ¬ ReadOnlyAddr a.toNat) : ∃ r, regAt n a = some r ∧ r.readOnly = false := by
  obtain ⟨r, hr⟩ := Option.ne_none_iff_exists'.1 (mt regAt_eq_none_iff.1 hmapped)
  refine ⟨r, hr, ?_⟩
  by_cases hglobal : a.toNat < 0x10
  · have hall : ∀ k < 0x0D, ¬ ReadOnlyAddr k → (globalReg k).map Reg.readOnly = some false := by decide
    rw [regAt, if_pos hglobal] at hr
    have := hall a.toNat (by omega) hwritable
    rwa [hr, Option.map_some, Option.some.injEq] at this
  · rw [regAt, if_neg hglobal, if_pos (by omega)] at hr
    exact readOnly_of_slotReg hr

/-- The code an operation answers in a state (60_exceptions.md R171), by the priority of R172. -/
def State.codeOf (s : State) : Instr → Code
  | .wrreg a _ =>
    if Unmapped s.nschema a.toNat then .badAddr else if ReadOnlyAddr a.toNat then .readOnly else .ok
  | .rdreg a => if Unmapped s.nschema a.toNat then .badAddr else .ok
  | .release => if s.outv = false then .noFrame else .ok
  | .frread j => if s.outv = false then .noFrame else if s.outLen.toNat ≤ j.toNat then .range else .ok
  | .nop | .push _ _ | .cancel | .ckinit _ | .ckfeed _ | .sreset => .ok

/-- The code the block answers to a word in a state. -/
def State.codeOfWord (s : State) (w : OpWord) : Code :=
  match decode w with
  | .ok i => s.codeOf i
  | .error _ => .illegal

/-- The operation from `s` to `t` has answered the code, and has only raised it if it is not OK (R173). -/
def State.AnswersCode (s t : State) (c : Code) : Prop :=
  t.response.map Response.code = some c ∧ (c ≠ .ok → t = s.raise c)

theorem State.respond_ok_answersCode (s u : State) (d : Word) : s.AnswersCode (u.respond .ok d) .ok :=
  ⟨rfl, fun h => absurd rfl h⟩

theorem State.raise_answersCode (s : State) (c : Code) : s.AnswersCode (s.raise c) c := ⟨rfl, fun _ => rfl⟩

/-- WRREG at an address of each of the three kinds. -/
theorem exec_wrreg_answersCode (s : State) (a : BitVec 8) (d : Word) :
    ∃ t, exec (.wrreg a d) s = .next t ∧ s.AnswersCode t (s.codeOf (.wrreg a d)) := by
  rw [State.codeOf]
  by_cases hunmapped : Unmapped s.nschema a.toNat
  · rw [if_pos hunmapped]
    exact ⟨_, exec_wrreg_of_unmapped hunmapped d, s.raise_answersCode _⟩
  · rw [if_neg hunmapped]
    by_cases hreadOnly : ReadOnlyAddr a.toNat
    · rw [if_pos hreadOnly]
      exact ⟨_, exec_wrreg_of_readOnlyAddr hreadOnly s d, s.raise_answersCode _⟩
    · rw [if_neg hreadOnly]
      obtain ⟨r, hr, hwritable⟩ := exists_writable_regAt hunmapped hreadOnly
      exact ⟨_, exec_wrreg_of_writable hr hwritable d, s.respond_ok_answersCode _ _⟩

/-- An operation that completes has answered its code. -/
theorem exec_answersCode {i : Instr} {s t : State} (h : exec i s = .next t) : s.AnswersCode t (s.codeOf i) := by
  cases i with
  | nop | cancel | ckinit k | ckfeed b | sreset => cases h; exact s.respond_ok_answersCode _ _
  | push sof b =>
    obtain ⟨u, -, rfl⟩ := execPush_eq_next_iff.1 h
    exact s.respond_ok_answersCode u _
  | wrreg a d =>
    obtain ⟨u, hu, hanswers⟩ := exec_wrreg_answersCode s a d
    rw [hu] at h
    cases h
    exact hanswers
  | rdreg a =>
    rw [State.codeOf]
    obtain ⟨hnone, rfl⟩ | ⟨r, hr, rfl⟩ := execRdreg_eq_next_iff.1 h
    · rw [if_pos (regAt_eq_none_iff.1 hnone)]
      exact s.raise_answersCode _
    · rw [if_neg (mt regAt_eq_none_iff.2 (by simp [hr]))]
      exact s.respond_ok_answersCode _ _
  | release =>
    rw [State.codeOf]
    obtain ⟨hfree, rfl⟩ | ⟨hheld, rfl⟩ := execRelease_eq_next_iff.1 h
    · rw [if_pos hfree]
      exact s.raise_answersCode _
    · rw [if_neg (by simp [hheld])]
      exact s.respond_ok_answersCode _ _
  | frread j =>
    rw [State.codeOf]
    obtain ⟨hfree, rfl⟩ | ⟨hheld, hpast, rfl⟩ | ⟨hheld, hin, -, rfl⟩ := execFrread_eq_next_iff.1 h
    · rw [if_pos hfree]
      exact s.raise_answersCode _
    · rw [if_neg (by simp [hheld]), if_pos hpast]
      exact s.raise_answersCode _
    · rw [if_neg (by simp [hheld]), if_neg (by omega)]
      exact s.respond_ok_answersCode _ _

theorem performWord_answersCode {w : OpWord} {s t : State} (h : performWord w s = .next t) :
    s.AnswersCode t (s.codeOfWord w) := by
  rw [State.codeOfWord]
  cases hw : decode w with
  | ok i => exact exec_answersCode (performWord_of_ok hw s ▸ h)
  | error e =>
    rw [performWord_of_error hw] at h
    cases h
    exact s.raise_answersCode _

/-! ### No operation stops -/

theorem State.hdrAdvance_completes {s : State} {b : Byte} (hbufmax : 4 ≤ s.bufmax) (h : s.hdrResult b = .advance) :
    ∃ t, s.hdrAdvance b = .ok t := by
  have happend := State.append_of_lt (Nat.lt_of_lt_of_le (State.pos_lt_four_of_advance h) hbufmax) b
  cases hc : s.responseComplete b with
  | some j => exact ⟨_, State.hdrAdvance_eq_ok_iff.2 ⟨_, happend, .inl ⟨j, hc, rfl⟩⟩⟩
  | none => exact ⟨_, State.hdrAdvance_eq_ok_iff.2 ⟨_, happend, .inr ⟨hc, rfl⟩⟩⟩

theorem State.start_completes {s : State} (hbufmax : 4 ≤ s.bufmax) (b : Byte) : ∃ t, s.start b = .ok t := by
  cases hres : s.seed.hdrResult b with
  | noise => exact ⟨_, State.start_eq_ok_iff.2 (.inl ⟨hres, rfl⟩)⟩
  | mismatch => exact ⟨_, State.start_eq_ok_iff.2 (.inr (.inl ⟨hres, rfl⟩))⟩
  | advance =>
    obtain ⟨t, ht⟩ := State.hdrAdvance_completes (s := s.seed) hbufmax hres
    exact ⟨t, State.start_eq_ok_iff.2 (.inr (.inr ⟨hres, ht⟩))⟩

theorem State.hdrByte_completes {s : State} (hbufmax : 4 ≤ s.bufmax) (b : Byte) (sof : Bool) :
    ∃ t, s.hdrByte b sof = .ok t := by
  cases hres : s.hdrResult b with
  | noise => exact ⟨_, State.hdrByte_eq_ok_iff.2 (.inl ⟨hres, rfl⟩)⟩
  | mismatch =>
    obtain ⟨t, ht⟩ := State.start_completes (s := s.dropMismatch) hbufmax b
    rw [State.hdrByte, hres]
    by_cases hsof : (sof && decide (0 < s.pos.toNat)) = true
    · exact ⟨t, (if_pos hsof).trans ht⟩
    · exact ⟨_, if_neg hsof⟩
  | advance =>
    obtain ⟨t, ht⟩ := State.hdrAdvance_completes hbufmax hres
    exact ⟨t, State.hdrByte_eq_ok_iff.2 (.inr (.inr (.inr ⟨hres, ht⟩)))⟩

/-- ACCBYTE appends only below the EXPLEN of a well-formed slot, and that is at most BUFMAX (10_state.md R33). -/
theorem State.accByte_completes {s : State} (hbufmax : 4 ≤ s.bufmax) (b : Byte) (sof : Bool) :
    ∃ t, s.accByte b sof = .ok t := by
  by_cases hover : s.wellFormed s.slot.toNat = false ∨ (s.slotAt s.slot.toNat).explen.toNat ≤ s.pos.toNat
  · cases sof with
    | true =>
      obtain ⟨t, ht⟩ := State.start_completes (s := s.dropOverflow) hbufmax b
      exact ⟨t, State.accByte_eq_ok_iff.2 (.inl ⟨hover, .inl ⟨rfl, ht⟩⟩)⟩
    | false => exact ⟨_, State.accByte_eq_ok_iff.2 (.inl ⟨hover, .inr ⟨rfl, rfl⟩⟩)⟩
  · obtain ⟨hwf, hpos⟩ := not_or.1 hover
    rw [Bool.not_eq_false] at hwf
    rw [Nat.not_le] at hpos
    obtain ⟨-, -, -, -, hexplen⟩ := Slot.wellFormed_iff.1 hwf
    have happend := State.append_of_lt (Nat.lt_of_lt_of_le hpos hexplen) b
    by_cases hlast : s.pos.toNat + 1 = (s.slotAt s.slot.toNat).explen.toNat
    · exact ⟨_, State.accByte_eq_ok_iff.2 (.inr ⟨hwf, hpos, _, happend, .inl ⟨hlast, rfl⟩⟩)⟩
    · exact ⟨_, State.accByte_eq_ok_iff.2 (.inr ⟨hwf, hpos, _, happend, .inr ⟨hlast, rfl⟩⟩)⟩

theorem State.pushByte_completes {s : State} (hbufmax : 4 ≤ s.bufmax) (sof : Bool) (b : Byte) :
    ∃ t, s.pushByte sof b = .ok t := by
  cases hfsm : s.fsm with
  | idle =>
    by_cases hstart : sof = true ∨ s.rq = true
    · rw [State.pushByte_of_idle_start hfsm hstart]
      exact State.start_completes (s := s.clearRq) hbufmax b
    · obtain ⟨hsof, hrq⟩ := not_or.1 hstart
      exact ⟨s, State.pushByte_of_idle_drop hfsm (by simpa using hsof) (by simpa using hrq) b⟩
  | hdr =>
    rw [State.pushByte_of_hdr hfsm]
    exact State.hdrByte_completes (s := s.clearRq) hbufmax b _
  | accum =>
    rw [State.pushByte_of_accum hfsm]
    exact State.accByte_completes (s := s.clearRq) hbufmax b _

/-- Every operation completes when BUFMAX has room for a header and for the held frame. -/
theorem exec_completes {s : State} (hbufmax : 4 ≤ s.bufmax) (hout : s.outv = true → s.outLen.toNat ≤ s.bufmax)
    (i : Instr) : ∃ t, exec i s = .next t := by
  cases i with
  | nop | cancel | ckinit k | ckfeed b | sreset => exact ⟨_, rfl⟩
  | push sof b =>
    obtain ⟨t, ht⟩ := State.pushByte_completes hbufmax sof b
    exact ⟨_, exec_push_of_ok ht⟩
  | wrreg a d =>
    obtain ⟨t, ht, -⟩ := exec_wrreg_answersCode s a d
    exact ⟨t, ht⟩
  | rdreg a =>
    cases hr : regAt s.nschema a with
    | none => exact ⟨_, execRdreg_eq_next_iff.2 (.inl ⟨hr, rfl⟩)⟩
    | some r => exact ⟨_, exec_rdreg_of_regAt hr⟩
  | release =>
    cases hv : s.outv with
    | false => exact ⟨_, exec_release_of_free hv⟩
    | true => exact ⟨_, exec_release_of_held hv⟩
  | frread j =>
    cases hv : s.outv with
    | false => exact ⟨_, exec_frread_of_free hv j⟩
    | true =>
      obtain hin | hpast := Nat.lt_or_ge j.toNat s.outLen.toNat
      · exact ⟨_, exec_frread_of_held hv hin (hout hv)⟩
      · exact ⟨_, exec_frread_of_past_end hv hpast⟩

theorem performWord_completes {s : State} (hbufmax : 4 ≤ s.bufmax) (hout : s.outv = true → s.outLen.toNat ≤ s.bufmax)
    (w : OpWord) : ∃ t, performWord w s = .next t := by
  cases hw : decode w with
  | ok i => rw [performWord_of_ok hw]; exact exec_completes hbufmax hout i
  | error e => exact ⟨_, performWord_of_error hw s⟩

/-! ### The pending bits of STATUS -/

/-- The implemented bits of IE (10_state.md R38), which are also the bits of STATUS that can raise irq. -/
def ieBits : List Nat := [0, 8, 9, 10, 11, 12]

theorem ieMask_getLsbD {k : Nat} (hk : k < 16) : ieMask.getLsbD k = decide (k ∈ ieBits) := by
  revert k; decide

theorem and_ieMask_ne_zero_iff {v : Word} : v &&& ieMask ≠ 0 ↔ ∃ k ∈ ieBits, v.getLsbD k = true := by
  have hbit : ∀ k < 16, (v &&& ieMask).getLsbD k = (v.getLsbD k && decide (k ∈ ieBits)) := fun k hk => by
    rw [BitVec.getLsbD_and, ieMask_getLsbD hk]
  constructor
  · intro hne
    by_contra hnone
    refine hne (BitVec.eq_of_getLsbD_eq fun k hk => ?_)
    rw [hbit k hk, Bool.and_eq_false_iff.2]
    · exact BitVec.getLsbD_zero.symm
    · by_cases hk' : k ∈ ieBits
      · exact .inl (Bool.eq_false_iff.2 fun hv => hnone ⟨k, hk', hv⟩)
      · exact .inr (decide_eq_false hk')
  · rintro ⟨k, hk, hv⟩ hzero
    have := hbit k (BitVec.lt_of_getLsbD hv)
    rw [hzero, hv, decide_eq_true hk] at this
    simp at this

/-- irq is 1 when a bit is pending in STATUS and enabled in IE (60_exceptions.md R176). -/
theorem irq_eq_true_iff {s : State} :
    s.irq = true ↔ ∃ k ∈ ieBits, s.statusWord.getLsbD k = true ∧ s.ie.getLsbD k = true := by
  simp [State.irq, ieBits, statusWord_getLsbD, or_assoc, -BitVec.getLsbD_eq_getElem]

theorem irq_eq_true_iff_statusWord {s : State} : s.irq = true ↔ s.statusWord &&& s.ie &&& ieMask ≠ 0 := by
  rw [irq_eq_true_iff, and_ieMask_ne_zero_iff]
  simp only [BitVec.getLsbD_and, Bool.and_eq_true]

/-! ### The statements -/

/-- Settles O30: every word completes, and its code is ILLEGAL if it is not well-formed, else that of the operation it
decodes to, whose number is the word's OP and whose operands are its fields. -/
theorem responseCodeOfEveryWord : Obligations.ResponseCodeOfEveryWord := by
  rintro s w ⟨-, -, hbufmax, -⟩ hout
  obtain ⟨t, ht⟩ := performWord_completes (by omega) hout w
  refine ⟨t, ht, (performWord_answersCode ht).1.trans (congrArg some ?_)⟩
  rw [State.codeOfWord]
  cases hw : decode w with
  | error e =>
    have hillformed : wordWf w = false := by
      rw [← Bool.not_eq_true, wordWf_iff_decode_ok, hw]
      rintro ⟨i, hi⟩
      cases hi
    exact (if_pos hillformed).symm
  | ok i =>
    have hwf : ¬ wordWf w = false := by simpa using wordWf_iff_decode_ok.2 ⟨i, hw⟩
    obtain ⟨hop, -, hfields⟩ := decode_eq_ok_iff.1 hw
    rw [opField_toNat] at hop
    rw [← hfields]
    simp only [hop, ← addrField_toNat, ← idxField_toNat]
    rw [if_neg hwf]
    cases i with
    | wrreg _ _ | rdreg _ | release | frread _ => simp [opNumber, withFieldsOf, State.codeOf]
    | nop | push _ _ | cancel | ckinit _ | ckfeed _ | sreset => rfl

/-- Settles O31: an operation that answers a code other than OK has only raised it. -/
theorem errorsOnlySetErr : Obligations.ErrorsOnlySetErr := by
  intro s t w c d h hresponse hc
  obtain ⟨hcode, hraise⟩ := performWord_answersCode h
  rw [hresponse, Option.map_some, Option.some.injEq] at hcode
  rw [← hcode] at hraise
  exact hraise hc

/-- Settles O33: irq bit by bit and as the masked STATUS; a write to IE stores the implemented bits and leaves STATUS. -/
theorem irqIsEnabledStatus : Obligations.IrqIsEnabledStatus := by
  refine ⟨fun s => by simp only [State.irq, Bool.or_eq_true, Bool.and_eq_true, or_assoc],
    fun _ => irq_eq_true_iff_statusWord, fun s d =>
      ⟨_, exec_wrreg_of_writable (regAt_of_globalReg (k := 0x03) rfl s.nschema) rfl d, rfl, ?_⟩⟩
  rw [irq_eq_true_iff_statusWord]
  change s.statusWord &&& (d &&& ieMask) &&& ieMask ≠ 0 ↔ s.statusWord &&& d &&& ieMask ≠ 0
  rw [← BitVec.and_assoc, BitVec.and_assoc _ ieMask, BitVec.and_self]

end Sys2Proof.Machine
end

section
/-! PROOFS. The encoder of 30_encoding.md against the decoder: the bits of an encoded operation, that a word is determined
by the operation it decodes to, and the rows of the opcode table that select a word. -/

namespace Sys2Proof

/-! ### The bits of an encoded operation -/

/-- The OP field of the encoding is the operation's number, the column "OP" of 30_encoding.md R82. -/
theorem opField_encode (i : Instr) : opField (encode i) = BitVec.ofNat 4 (opNumber i) := by
  cases i with
  | nop => exact Laws.OpFieldOfEncode.nop
  | push sof b => exact Laws.OpFieldOfEncode.push sof b
  | wrreg a d => exact Laws.OpFieldOfEncode.wrreg a d
  | rdreg a => exact Laws.OpFieldOfEncode.rdreg a
  | cancel => exact Laws.OpFieldOfEncode.cancel
  | release => exact Laws.OpFieldOfEncode.release
  | ckinit k => exact Laws.OpFieldOfEncode.ckinit k
  | ckfeed b => exact Laws.OpFieldOfEncode.ckfeed b
  | frread x => exact Laws.OpFieldOfEncode.frread x
  | sreset => exact Laws.OpFieldOfEncode.sreset

/-- Bit `k` below OP of an operation's word: the operands at their places of R81, every other bit zero. -/
def operandBit : Instr → Nat → Bool
  | .push sof b, k => (decide (k = 8) && sof) || b.getLsbD k
  | .wrreg a d, k => (decide (20 ≤ k) && a.getLsbD (k - 20)) || d.getLsbD k
  | .rdreg a, k => decide (20 ≤ k) && a.getLsbD (k - 20)
  | .ckinit kind, k => decide (k = 0) && kind.bit
  | .ckfeed b, k => b.getLsbD k
  | .frread x, k => x.getLsbD k
  | .nop, _ | .cancel, _ | .release, _ | .sreset, _ => false

/-- The match value of a row has no bit below OP. -/
theorem rowPattern_getLsbD_low (op : BitVec 4) {k : Nat} (hk : k < 28) : (rowPattern op).getLsbD k = false := by
  rw [rowPattern_getLsbD op (by omega), decide_eq_false (by omega), Bool.false_and]

theorem getLsbD_zeroExtend_shiftLeft {n : Nat} (x : BitVec n) (lo : Nat) {k : Nat} (hk : k < 32) :
    (x.zeroExtend 32 <<< lo).getLsbD k = (decide (lo ≤ k) && x.getLsbD (k - lo)) := by
  have hlow : k - lo < 32 := by omega
  simp only [BitVec.getLsbD_shiftLeft, BitVec.zeroExtend, BitVec.getLsbD_setWidth, hk, hlow, decide_true, Bool.true_and,
    ← decide_not, Nat.not_lt]

theorem getLsbD_zeroExtend {n : Nat} (x : BitVec n) {k : Nat} (hk : k < 32) :
    (x.zeroExtend 32).getLsbD k = x.getLsbD k := by
  rw [BitVec.zeroExtend, BitVec.getLsbD_setWidth, decide_eq_true hk, Bool.true_and]

theorem encode_getLsbD {i : Instr} {k : Nat} (hk : k < 28) : (encode i).getLsbD k = operandBit i k := by
  have h32 : k < 32 := by omega
  have hop : ∀ op : BitVec 4, (rowPattern op).getLsbD k = false := fun op => rowPattern_getLsbD_low op hk
  cases i with
  | nop => exact hop 0
  | push sof b =>
    change (rowPattern 1 ||| (BitVec.ofBool sof).zeroExtend 32 <<< 8 ||| b.zeroExtend 32).getLsbD k = _
    rw [BitVec.getLsbD_or, BitVec.getLsbD_or, hop, getLsbD_zeroExtend_shiftLeft _ _ h32, getLsbD_zeroExtend _ h32,
      BitVec.getLsbD_ofBool, Bool.false_or, operandBit, ← Bool.and_assoc, ← Bool.decide_and]
    congr 2
    exact decide_eq_decide.2 (by omega)
  | wrreg a d =>
    change (rowPattern 2 ||| a.zeroExtend 32 <<< 20 ||| d.zeroExtend 32).getLsbD k = _
    rw [BitVec.getLsbD_or, BitVec.getLsbD_or, hop, getLsbD_zeroExtend_shiftLeft _ _ h32, getLsbD_zeroExtend _ h32,
      Bool.false_or, operandBit]
  | rdreg a =>
    change (rowPattern 3 ||| a.zeroExtend 32 <<< 20).getLsbD k = _
    rw [BitVec.getLsbD_or, hop, getLsbD_zeroExtend_shiftLeft _ _ h32, Bool.false_or, operandBit]
  | cancel => exact hop 4
  | release => exact hop 5
  | ckinit kind =>
    change (rowPattern 6 ||| (BitVec.ofBool kind.bit).zeroExtend 32).getLsbD k = _
    rw [BitVec.getLsbD_or, hop, getLsbD_zeroExtend _ h32, BitVec.getLsbD_ofBool, Bool.false_or, operandBit]
  | ckfeed b =>
    change (rowPattern 7 ||| b.zeroExtend 32).getLsbD k = _
    rw [BitVec.getLsbD_or, hop, getLsbD_zeroExtend _ h32, Bool.false_or, operandBit]
  | frread x =>
    change (rowPattern 8 ||| x.zeroExtend 32).getLsbD k = _
    rw [BitVec.getLsbD_or, hop, getLsbD_zeroExtend _ h32, Bool.false_or, operandBit]
  | sreset => exact hop 9

/-- A field below OP of an encoded operation, bit by bit. -/
theorem extractLsb'_encode_getLsbD {i : Instr} {lo n k : Nat} (hfield : lo + n ≤ 28) (hk : k < n) :
    ((encode i).extractLsb' lo n).getLsbD k = operandBit i (lo + k) := by
  rw [BitVec.getLsbD_extractLsb', encode_getLsbD (by omega), decide_eq_true hk, Bool.true_and]

/-- No operand reaches into the reserved bits of its row. -/
theorem operandBit_reserved {i : Instr} {k : Nat} (hlo : reservedLow i ≤ k) (hn : k < reservedLow i + reservedCount i) :
    operandBit i k = false := by
  cases i with
  | nop | cancel | release | sreset => rfl
  | push sof b =>
    simp only [reservedLow] at hlo
    rw [operandBit, BitVec.getLsbD_of_ge _ _ (by omega), decide_eq_false (by omega)]
    rfl
  | wrreg a d =>
    simp only [reservedLow, reservedCount] at hlo hn
    rw [operandBit, BitVec.getLsbD_of_ge d _ (by omega), decide_eq_false (by omega)]
    rfl
  | rdreg a =>
    simp only [reservedLow, reservedCount] at hn
    rw [operandBit, decide_eq_false (by omega)]
    rfl
  | ckinit kind =>
    simp only [reservedLow] at hlo
    rw [operandBit, decide_eq_false (by omega)]
    rfl
  | ckfeed b =>
    simp only [reservedLow] at hlo
    rw [operandBit, BitVec.getLsbD_of_ge _ _ (by omega)]
  | frread x =>
    simp only [reservedLow] at hlo
    rw [operandBit, BitVec.getLsbD_of_ge _ _ (by omega)]

theorem reserved_encode (i : Instr) : (encode i).extractLsb' (reservedLow i) (reservedCount i) = 0 := by
  refine BitVec.eq_of_getLsbD_eq fun k hk => ?_
  rw [extractLsb'_encode_getLsbD (reservedLow_add_reservedCount_le i) hk, operandBit_reserved (by omega) (by omega)]
  exact BitVec.getLsbD_zero.symm

theorem Kind.ofBit_bit (k : Kind) : Kind.ofBit k.bit = k := by cases k <;> rfl

/-- The fields of an encoded operation are its operands (R81, R84). -/
theorem withFieldsOf_encode (i : Instr) : withFieldsOf (encode i) i = i := by
  cases i with
  | nop | cancel | release | sreset => rfl
  | push sof b =>
    refine congrArg₂ Instr.push ?_ (BitVec.eq_of_getLsbD_eq fun k hk => ?_)
    · rw [sofField, encode_getLsbD (by omega), operandBit, BitVec.getLsbD_of_ge _ _ (by omega)]
      simp
    · rw [byteField, extractLsb'_encode_getLsbD (by omega) hk, operandBit, decide_eq_false (by omega)]
      simp
  | wrreg a d =>
    refine congrArg₂ Instr.wrreg (BitVec.eq_of_getLsbD_eq fun k hk => ?_) (BitVec.eq_of_getLsbD_eq fun k hk => ?_)
    · rw [addrField, extractLsb'_encode_getLsbD (by omega) hk, operandBit, BitVec.getLsbD_of_ge d _ (by omega)]
      simp
    · rw [dataField, extractLsb'_encode_getLsbD (by omega) hk, operandBit, decide_eq_false (by omega)]
      simp
  | rdreg a =>
    refine congrArg Instr.rdreg (BitVec.eq_of_getLsbD_eq fun k hk => ?_)
    rw [addrField, extractLsb'_encode_getLsbD (by omega) hk, operandBit]
    simp
  | ckinit kind =>
    rw [withFieldsOf, kindField, encode_getLsbD (by omega), operandBit, decide_eq_true rfl, Bool.true_and, Kind.ofBit_bit]
  | ckfeed b =>
    refine congrArg Instr.ckfeed (BitVec.eq_of_getLsbD_eq fun k hk => ?_)
    rw [byteField, extractLsb'_encode_getLsbD (by omega) hk, operandBit, Nat.zero_add]
  | frread x =>
    refine congrArg Instr.frread (BitVec.eq_of_getLsbD_eq fun k hk => ?_)
    rw [idxField, extractLsb'_encode_getLsbD (by omega) hk, operandBit, Nat.zero_add]

theorem decode_encode (i : Instr) : decode (encode i) = .ok i := by
  refine decode_eq_ok_iff.2 ⟨?_, reserved_encode i, withFieldsOf_encode i⟩
  have := opNumber_lt_ten i
  rw [opField_encode, BitVec.toNat_ofNat]
  omega

/-! ### A word is determined by the operation it decodes to -/

/-- Every bit below OP of a word that decodes is an operand's or reserved, so zero. -/
theorem getLsbD_of_decode_ok {w : OpWord} {i : Instr} (h : decode w = .ok i) {k : Nat} (hk : k < 28) :
    w.getLsbD k = operandBit i k := by
  obtain ⟨-, hres, hfields⟩ := decode_eq_ok_iff.1 h
  by_cases hreserved : reservedLow i ≤ k ∧ k < reservedLow i + reservedCount i
  · have hbit := congrArg (fun v => v.getLsbD (k - reservedLow i)) hres
    simp only [BitVec.getLsbD_extractLsb', show reservedLow i + (k - reservedLow i) = k by omega,
      decide_eq_true (show k - reservedLow i < reservedCount i by omega), Bool.true_and] at hbit
    rw [hbit, operandBit_reserved hreserved.1 hreserved.2]
    exact BitVec.getLsbD_zero
  · cases i with
    | nop | cancel | release | sreset => simp only [reservedLow, reservedCount] at hreserved; omega
    | push sof b =>
      simp only [reservedLow, reservedCount] at hreserved
      obtain ⟨rfl, rfl⟩ := Instr.push.inj hfields
      simp only [operandBit, sofField, byteField, BitVec.getLsbD_extractLsb', Nat.zero_add]
      by_cases h8 : k = 8
      · subst h8; simp [-BitVec.getLsbD_eq_getElem]
      · simp [-BitVec.getLsbD_eq_getElem, h8, show k < 8 by omega]
    | wrreg a d =>
      simp only [reservedLow, reservedCount] at hreserved
      obtain ⟨rfl, rfl⟩ := Instr.wrreg.inj hfields
      simp only [operandBit, addrField, dataField, BitVec.getLsbD_extractLsb', Nat.zero_add]
      by_cases h16 : k < 16
      · simp [-BitVec.getLsbD_eq_getElem, h16, show ¬ 20 ≤ k by omega]
      · simp [-BitVec.getLsbD_eq_getElem, h16, show 20 ≤ k by omega, show k - 20 < 8 by omega,
          show 20 + (k - 20) = k by omega]
    | rdreg a =>
      simp only [reservedLow, reservedCount] at hreserved
      obtain rfl := Instr.rdreg.inj hfields
      simp [-BitVec.getLsbD_eq_getElem, operandBit, addrField, show 20 ≤ k by omega, show k - 20 < 8 by omega,
        show 20 + (k - 20) = k by omega]
    | ckinit kind =>
      simp only [reservedLow, reservedCount] at hreserved
      obtain rfl := Instr.ckinit.inj hfields
      obtain rfl : k = 0 := by omega
      simp only [operandBit, kindField, decide_true, Bool.true_and]
      cases w.getLsbD 0 <;> rfl
    | ckfeed b =>
      simp only [reservedLow, reservedCount] at hreserved
      obtain rfl := Instr.ckfeed.inj hfields
      simp [-BitVec.getLsbD_eq_getElem, operandBit, byteField, show k < 8 by omega]
    | frread x =>
      simp only [reservedLow, reservedCount] at hreserved
      obtain rfl := Instr.frread.inj hfields
      simp [-BitVec.getLsbD_eq_getElem, operandBit, idxField, show k < 16 by omega]

theorem encode_eq_of_decode_ok {w : OpWord} {i : Instr} (h : decode w = .ok i) : encode i = w := by
  refine opWord_ext ?_ fun k hk => by rw [encode_getLsbD hk, getLsbD_of_decode_ok h hk]
  obtain ⟨hop, -, -⟩ := decode_eq_ok_iff.1 h
  rw [opField_encode, ← hop, BitVec.ofNat_toNat, BitVec.setWidth_eq]

/-! ### The rows that select a word -/

/-- Of the rows, exactly the one with the word's OP selects a word that decodes. -/
theorem rowOf_selects_of_decode_ok {w : OpWord} {j : Instr} (hj : decode w = .ok j) (i : Instr) :
    (rowOf i).selects w = (opNumber i == opNumber j) := by
  obtain ⟨hop, -, -⟩ := decode_eq_ok_iff.1 hj
  rw [Bool.eq_iff_iff, rowOf_selects_iff, beq_iff_eq, hj, Except.ok.injEq]
  constructor
  · intro h
    rw [h, opNumber_withFieldsOf]
  · intro h
    rw [decode_of_opNumber (hop.trans h.symm), strict_eq_ok_iff] at hj
    exact hj.2.symm

/-- An operation's row is determined by its number. -/
theorem filter_rowOperations (j : Instr) :
    (rowOperations.filter fun i => opNumber i == opNumber j).map rowOf = [rowOf j] := by
  cases j <;> rfl

theorem rowsSelecting_of_decode_ok {w : OpWord} {j : Instr} (h : decode w = .ok j) : rowsSelecting w = [rowOf j] := by
  rw [rowsSelecting, opTable_eq_map_rowOf, List.filter_map, ← filter_rowOperations]
  exact congrArg _ (List.filter_congr fun i _ => rowOf_selects_of_decode_ok h i)

theorem rowsSelecting_of_decode_error {w : OpWord} {e : DecodeError} (h : decode w = .error e) : rowsSelecting w = [] := by
  rw [rowsSelecting, opTable_eq_map_rowOf, List.filter_map, List.map_eq_nil_iff, List.filter_eq_nil_iff]
  intro i _ hselects
  have hok := rowOf_selects_iff.1 hselects
  rw [h] at hok
  cases hok

/-! ### The statements -/

/-- Settles O1: OP, the reserved bits and the fields of an encoded operation are what its row of the decoder reads. -/
theorem decodeOfEncode : Obligations.DecodeOfEncode := decode_encode

/-- Settles O2: the decoder reads every bit of the word, as OP, as an operand or as a reserved zero. -/
theorem encodeOfDecode : Obligations.EncodeOfDecode := fun _ _ => encode_eq_of_decode_ok

/-- Settles O3: a word that decodes is selected by its operation's row alone, one that does not by none. -/
theorem decodeAgreesWithOpcodeTable : Obligations.DecodeAgreesWithOpcodeTable := by
  intro w
  cases h : decode w with
  | ok i => exact congrArg (List.map OpRow.mnemonic) (rowsSelecting_of_decode_ok h)
  | error e => exact rowsSelecting_of_decode_error h

/-- Settles O5: each word is the encoding of the operation named. -/
theorem specWordsDecodeAsNamed : Obligations.SpecWordsDecodeAsNamed :=
  ⟨decode_encode .nop, decode_encode (.push true 0x01), decode_encode (.push false 0x03),
    decode_encode (.wrreg 0x11 0x0014), decode_encode (.rdreg 0x02), decode_encode .cancel, decode_encode .release,
    decode_encode (.ckinit .crc), decode_encode (.ckfeed 0xFF), decode_encode (.frread 19), decode_encode .sreset⟩

end Sys2Proof
end

section
/-! PROOFS. Which operations write which part of the state: one frame for each part, what an operation keeps of it, and
the sticky bits of STATUS. -/

namespace Sys2Proof.Machine

/-! ### The parts of the state -/

/-- The standalone checksum unit (10_state.md R44) is the same. -/
def State.SameChecksum (s t : State) : Prop :=
  t.ckKind = s.ckKind ∧ t.ckCnt = s.ckCnt ∧ t.ckAcc = s.ckAcc ∧ t.ckP1 = s.ckP1 ∧ t.ckP2 = s.ckP2 ∧
  t.ckB1 = s.ckB1 ∧ t.ckB2 = s.ckB2

/-- The slot file and IE (R26, R38), which only the host writes, are the same. -/
def State.SameSetup (s t : State) : Prop :=
  t.slots = s.slots ∧ t.ie = s.ie

/-- The reassembler (R39, R40, R43) is the same. -/
def State.SameReassembler (s t : State) : Prop :=
  t.fsm = s.fsm ∧ t.pos = s.pos ∧ t.slot = s.slot ∧ t.rq = s.rq ∧ t.candr = s.candr ∧
  t.candn = s.candn ∧ t.rbuf = s.rbuf

/-- The output frame (R36) is the same. -/
def State.SameOutput (s t : State) : Prop :=
  t.outv = s.outv ∧ t.outLen = s.outLen ∧ t.outSchema = s.outSchema ∧ t.outCkok = s.outCkok ∧
  t.obuf = s.obuf

/-- What an operation from `s` to `t` has left alone: each part, unless the operation is one of the part's writers. -/
structure State.WrittenBy (i : Instr) (s t : State) : Prop where
  checksum : (∀ k, i ≠ .ckinit k) → (∀ b, i ≠ .ckfeed b) → s.SameChecksum t
  setup : (∀ a d, i ≠ .wrreg a d) → s.SameSetup t
  reassembler : isPush i = false → i ≠ .cancel → s.SameReassembler t
  output : isPush i = false ∨ s.outv = true → i ≠ .release → s.SameOutput t
  bufmax : t.bufmax = s.bufmax
  port : t.port = s.port

theorem State.SameChecksum.refl (s : State) : s.SameChecksum s := ⟨rfl, rfl, rfl, rfl, rfl, rfl, rfl⟩

theorem State.SameSetup.refl (s : State) : s.SameSetup s := ⟨rfl, rfl⟩

theorem State.SameReassembler.refl (s : State) : s.SameReassembler s := ⟨rfl, rfl, rfl, rfl, rfl, rfl, rfl⟩

theorem State.SameOutput.refl (s : State) : s.SameOutput s := ⟨rfl, rfl, rfl, rfl, rfl⟩

/-- A response is in no part. -/
theorem State.respond_writtenBy (i : Instr) (s : State) (c : Code) (d : Word) : State.WrittenBy i s (s.respond c d) where
  checksum _ _ := .refl s
  setup _ := .refl s
  reassembler _ _ := .refl s
  output _ _ := .refl s
  bufmax := rfl
  port := rfl

/-- A raised code writes STATUS.ERR, which is in no part. -/
theorem State.raise_writtenBy (i : Instr) (s : State) (c : Code) : State.WrittenBy i s (s.raise c) where
  checksum _ _ := .refl s
  setup _ := .refl s
  reassembler _ _ := .refl s
  output _ _ := .refl s
  bufmax := rfl
  port := rfl

theorem State.writeReg_writtenBy (a : BitVec 8) (d : Word) (s : State) (r : Reg) :
    State.WrittenBy (.wrreg a d) s ((s.writeReg d r).respond .ok 0x0000) where
  checksum _ _ := by cases r <;> exact .refl s
  setup h := absurd rfl (h a d)
  reassembler _ _ := by cases r <;> exact .refl s
  output _ _ := by cases r <;> exact .refl s
  bufmax := by cases r <;> rfl
  port := by cases r <;> rfl

/-! ### What PUSH keeps: one induction over its procedures -/

/-- `P` is kept by every update that the byte procedures of PUSH make (41_reassembler.md R122 to R128). A match goes on
with masks of existing slots, an accumulation begins against an eligible slot, and a frame is completed with the EXPLEN
of a well-formed slot. -/
structure KeptByPush (P : State → Prop) : Prop where
  clearRq : ∀ s, P s → P s.clearRq
  seed : ∀ s, P s → P s.seed
  dropNoise : ∀ s, P s → P s.dropNoise
  dropMismatch : ∀ s, P s → P s.dropMismatch
  dropOverflow : ∀ s, P s → P s.dropOverflow
  appended : ∀ s b, s.pos.toNat < s.bufmax → P s → P (s.appended b)
  toAccum : ∀ s j, s.eligible j = true → P s → P (s.toAccum j)
  keepCandidates : ∀ s cn cr, cn.toNat < 2 ^ s.nschema → cr.toNat < 2 ^ s.nschema → P s → P (s.keepCandidates cn cr)
  complete : ∀ s j, s.wellFormed j = true → P s → P (s.complete j (s.slotAt j).explen.toNat)

theorem State.eligible_of_responseComplete {s : State} {b : Byte} {j : Nat} (h : s.responseComplete b = some j) :
    s.eligible j = true := by
  obtain ⟨⟨-, he, -⟩, -⟩ := State.responseComplete_eq_some.1 h
  exact he

theorem KeptByPush.hdrAdvance {P : State → Prop} (hP : KeptByPush P) {s t : State} {b : Byte} (hs : P s)
    (h : s.hdrAdvance b = .ok t) : P t := by
  obtain ⟨u, hu, hcases⟩ := State.hdrAdvance_eq_ok_iff.1 h
  obtain ⟨hpos, rfl⟩ : _ ∧ u = s.appended b := State.append_eq_ok_iff.1 hu
  have happended := hP.appended s b hpos hs
  obtain ⟨j, hj, rfl⟩ | ⟨-, rfl⟩ := hcases
  · have heligible : (s.appended b).eligible j = true := State.eligible_of_responseComplete (s := s) hj
    exact hP.toAccum (s.appended b) j heligible happended
  · have hcn : (s.noiseMatches b).toNat < 2 ^ (s.appended b).nschema := slotSet_toNat_lt s.nschema _
    have hcr : (s.responseMatches b).toNat < 2 ^ (s.appended b).nschema := slotSet_toNat_lt s.nschema _
    exact hP.keepCandidates (s.appended b) _ _ hcn hcr happended

theorem KeptByPush.start {P : State → Prop} (hP : KeptByPush P) {s t : State} {b : Byte} (hs : P s)
    (h : s.start b = .ok t) : P t := by
  obtain ⟨-, rfl⟩ | ⟨-, rfl⟩ | ⟨-, h⟩ := State.start_eq_ok_iff.1 h
  · exact hP.dropNoise s hs
  · exact hP.dropMismatch s hs
  · exact hP.hdrAdvance (hP.seed s hs) h

theorem KeptByPush.hdrByte {P : State → Prop} (hP : KeptByPush P) {s t : State} {b : Byte} {sof : Bool} (hs : P s)
    (h : s.hdrByte b sof = .ok t) : P t := by
  obtain ⟨-, rfl⟩ | ⟨-, -, rfl⟩ | ⟨-, -, -, h⟩ | ⟨-, h⟩ := State.hdrByte_eq_ok_iff.1 h
  · exact hP.dropNoise s hs
  · exact hP.dropMismatch s hs
  · exact hP.start (hP.dropMismatch s hs) h
  · exact hP.hdrAdvance hs h

theorem KeptByPush.accByte {P : State → Prop} (hP : KeptByPush P) {s t : State} {b : Byte} {sof : Bool} (hs : P s)
    (h : s.accByte b sof = .ok t) : P t := by
  obtain ⟨-, ⟨-, h⟩ | ⟨-, rfl⟩⟩ | ⟨hwf, -, u, hu, hcases⟩ := State.accByte_eq_ok_iff.1 h
  · exact hP.start (hP.dropOverflow s hs) h
  · exact hP.dropOverflow s hs
  · obtain ⟨hpos, rfl⟩ : _ ∧ u = s.appended b := State.append_eq_ok_iff.1 hu
    have happended := hP.appended s b hpos hs
    obtain ⟨-, rfl⟩ | ⟨-, rfl⟩ := hcases
    · exact hP.complete (s.appended b) _ hwf happended
    · exact happended

theorem KeptByPush.pushByte {P : State → Prop} (hP : KeptByPush P) {s t : State} {sof : Bool} {b : Byte} (hs : P s)
    (h : s.pushByte sof b = .ok t) : P t := by
  obtain ⟨-, -, -, rfl⟩ | ⟨-, -, h⟩ | ⟨-, h⟩ | ⟨-, h⟩ := State.pushByte_eq_ok_iff.1 h
  · exact hP.clearRq s hs
  · exact hP.start (hP.clearRq s hs) h
  · exact hP.hdrByte (hP.clearRq s hs) h
  · exact hP.accByte (hP.clearRq s hs) h

/-! ### What each operation leaves alone -/

/-- A held frame is kept by every procedure of PUSH (R127). -/
theorem keptByPush_heldOutput (s : State) : KeptByPush fun t => t.outv = true ∧ s.SameOutput t where
  clearRq _ h := h
  seed _ h := h
  dropNoise _ h := h
  dropMismatch _ h := h
  dropOverflow _ h := h
  appended _ _ _ h := h
  toAccum _ _ _ h := h
  keepCandidates _ _ _ _ _ h := h
  complete _ _ _ h := by rw [State.complete_of_held h.1]; exact h

theorem State.pushByte_heldOutput {s t : State} {sof : Bool} {b : Byte} (hheld : s.outv = true)
    (h : s.pushByte sof b = .ok t) : s.SameOutput t :=
  ((keptByPush_heldOutput s).pushByte ⟨hheld, .refl s⟩ h).2

theorem exec_writtenBy {i : Instr} {s t : State} (h : exec i s = .next t) (hi : i ≠ .sreset) : State.WrittenBy i s t := by
  cases i with
  | nop => cases h; exact s.respond_writtenBy _ _ _
  | push sof b =>
    obtain ⟨u, hu, rfl⟩ := execPush_eq_next_iff.1 h
    obtain ⟨hhost, -⟩ := State.pushByte_frame hu
    exact
      { checksum := fun _ _ => ⟨hhost.ckKind, hhost.ckCnt, hhost.ckAcc, hhost.ckP1, hhost.ckP2, hhost.ckB1, hhost.ckB2⟩
        setup := fun _ => ⟨hhost.slots, hhost.ie⟩
        reassembler := fun hpush _ => by cases hpush
        output := fun hheld _ => (State.pushByte_heldOutput (hheld.resolve_left Bool.noConfusion) hu :)
        bufmax := hhost.bufmax
        port := hhost.port }
  | wrreg a d =>
    obtain ⟨-, rfl⟩ | ⟨r, -, -, rfl⟩ | ⟨r, -, -, rfl⟩ := execWrreg_eq_next_iff.1 h
    · exact s.raise_writtenBy _ _
    · exact s.raise_writtenBy _ _
    · exact s.writeReg_writtenBy a d r
  | rdreg a =>
    obtain ⟨-, rfl⟩ | ⟨r, -, rfl⟩ := execRdreg_eq_next_iff.1 h
    · exact s.raise_writtenBy _ _
    · exact s.respond_writtenBy _ _ _
  | cancel =>
    cases h
    exact { s.respond_writtenBy .cancel .ok 0x0000 with reassembler := fun _ hcancel => absurd rfl hcancel }
  | release =>
    obtain ⟨-, rfl⟩ | ⟨-, rfl⟩ := execRelease_eq_next_iff.1 h
    · exact s.raise_writtenBy _ _
    · exact { s.respond_writtenBy .release .ok 0x0000 with output := fun _ hrelease => absurd rfl hrelease }
  | ckinit k =>
    cases h
    exact { s.respond_writtenBy (.ckinit k) .ok 0x0000 with checksum := fun hinit _ => absurd rfl (hinit k) }
  | ckfeed b =>
    cases h
    exact { s.respond_writtenBy (.ckfeed b) .ok 0x0000 with checksum := fun _ hfeed => absurd rfl (hfeed b) }
  | frread x =>
    obtain ⟨-, rfl⟩ | ⟨-, -, rfl⟩ | ⟨-, -, -, rfl⟩ := execFrread_eq_next_iff.1 h
    · exact s.raise_writtenBy _ _
    · exact s.raise_writtenBy _ _
    · exact s.respond_writtenBy _ _ _
  | sreset => exact absurd rfl hi

/-! ### The sticky bits -/

/-- Two different addresses hold different registers below 0x10 (10_state.md R24). -/
theorem globalReg_injective {k l : Nat} {r : Reg} (hk : globalReg k = some r) (hl : globalReg l = some r) : k = l := by
  have hlow : ∀ {k}, globalReg k = some r → k < 0x0D := fun {k} hk =>
    Nat.lt_of_not_le fun hk' => by rw [globalReg_eq_none_iff.2 hk'] at hk; cases hk
  have hall : ∀ k < 0x0D, ∀ l < 0x0D, globalReg k = globalReg l → k = l := by decide
  exact hall k (hlow hk) l (hlow hl) (hk.trans hl.symm)

/-- No register of a slot is one of the registers below 0x10. -/
theorem slotReg_ne_globalReg {j k l : Nat} {r : Reg} (hk : slotReg j k = some r) : globalReg l ≠ some r := by
  intro hl
  have hk' : k < 6 := Nat.lt_of_not_le fun hk' => by rw [slotReg_eq_none_iff.2 hk'] at hk; cases hk
  have hl' : l < 0x0D := Nat.lt_of_not_le fun hl' => by rw [globalReg_eq_none_iff.2 hl'] at hl; cases hl
  interval_cases k <;> cases hk <;> interval_cases l <;> cases hl

/-- A register below 0x10 is at its own address only. -/
theorem eq_of_regAt_eq_globalReg {n k : Nat} {a : BitVec 8} {r : Reg} (hr : globalReg k = some r)
    (ha : regAt n a = some r) : a = BitVec.ofNat 8 k := by
  unfold regAt at ha
  split at ha
  · rw [globalReg_injective hr ha, BitVec.ofNat_toNat, BitVec.setWidth_eq]
  · split at ha
    · exact absurd hr (slotReg_ne_globalReg ha)
    · cases ha

/-- The bits of STATUS that an operation names to be cleared: those of the data of a WRREG to STATUS. -/
def clearedBits : Instr → Word
  | .wrreg a d => if a = 0x02 then d else 0
  | .nop | .push _ _ | .rdreg _ | .cancel | .release | .ckinit _ | .ckfeed _ | .frread _ | .sreset => 0

/-- Every sticky bit that is 1 and whose bit in `m` is 0 stays 1 (10_state.md R35). -/
def State.StickyBut (m : Word) (s t : State) : Prop :=
  (s.noise = true → m.getLsbD 8 = false → t.noise = true) ∧
  (s.mism = true → m.getLsbD 9 = false → t.mism = true) ∧
  (s.ovf = true → m.getLsbD 10 = false → t.ovf = true) ∧
  (s.ovr = true → m.getLsbD 11 = false → t.ovr = true) ∧
  (s.err = true → m.getLsbD 12 = false → t.err = true)

theorem State.StickyBut.refl (m : Word) (s : State) : State.StickyBut m s s :=
  ⟨fun h _ => h, fun h _ => h, fun h _ => h, fun h _ => h, fun h _ => h⟩

theorem State.raise_stickyBut (m : Word) (s : State) (c : Code) : State.StickyBut m s (s.raise c) :=
  ⟨fun h _ => h, fun h _ => h, fun h _ => h, fun h _ => h, fun _ _ => rfl⟩

theorem State.clearSticky_stickyBut (s : State) (d : Word) : State.StickyBut d s (s.clearSticky d) := by
  refine ⟨?_, ?_, ?_, ?_, ?_⟩ <;> intro hbit hd <;> simp [hbit, hd, -BitVec.getLsbD_eq_getElem]

/-- A byte procedure of PUSH clears no sticky bit, and does not touch ERR. -/
theorem State.PushFrame.stickyBut {s t : State} (h : s.PushFrame t) (m : Word) : State.StickyBut m s t := by
  obtain ⟨hhost, hsticky⟩ := h
  exact ⟨fun hs _ => hsticky.noise hs, fun hs _ => hsticky.mism hs, fun hs _ => hsticky.ovf hs,
    fun hs _ => hsticky.ovr hs, fun hs _ => hhost.err.trans hs⟩

theorem exec_stickyBut {i : Instr} {s t : State} (h : exec i s = .next t) (hi : i ≠ .sreset) :
    State.StickyBut (clearedBits i) s t := by
  cases i with
  | nop | cancel | ckinit k | ckfeed b => cases h; exact .refl _ s
  | push sof b =>
    obtain ⟨u, hu, rfl⟩ := execPush_eq_next_iff.1 h
    exact (State.pushByte_frame hu).stickyBut _
  | wrreg a d =>
    obtain ⟨-, rfl⟩ | ⟨r, -, -, rfl⟩ | ⟨r, hr, -, rfl⟩ := execWrreg_eq_next_iff.1 h
    · exact s.raise_stickyBut _ _
    · exact s.raise_stickyBut _ _
    · cases r with
      | status =>
        have ha : a = 0x02 := eq_of_regAt_eq_globalReg (k := 0x02) rfl hr
        rw [clearedBits, if_pos ha]
        exact s.clearSticky_stickyBut d
      | ie | scfg _ | explen _ | rhdr01 _ | rhdr23 _ | nhdr01 _ | nhdr23 _ | param0 | param1 | fsmstat | fsmpos | outinfo
        | outlen | cfgerr | ckstat | ckres | ckcnt | cand => exact .refl _ s
  | rdreg a =>
    obtain ⟨-, rfl⟩ | ⟨r, -, rfl⟩ := execRdreg_eq_next_iff.1 h
    · exact s.raise_stickyBut _ _
    · exact .refl _ s
  | release =>
    obtain ⟨-, rfl⟩ | ⟨-, rfl⟩ := execRelease_eq_next_iff.1 h
    · exact s.raise_stickyBut _ _
    · exact .refl _ s
  | frread x =>
    obtain ⟨-, rfl⟩ | ⟨-, -, rfl⟩ | ⟨-, -, -, rfl⟩ := execFrread_eq_next_iff.1 h
    · exact s.raise_stickyBut _ _
    · exact s.raise_stickyBut _ _
    · exact .refl _ s
  | sreset => exact absurd rfl hi

/-- An operation clears bit `k` only if it is a WRREG to STATUS that names it. -/
theorem clearedBits_getLsbD_eq_false {i : Instr} {k : Nat} (h : ∀ d, i = .wrreg 0x02 d → d.getLsbD k = false) :
    (clearedBits i).getLsbD k = false := by
  cases i with
  | wrreg a d =>
    rw [clearedBits]
    split
    case isTrue ha => exact h d (by rw [ha])
    case isFalse => exact BitVec.getLsbD_zero
  | nop | push _ _ | rdreg _ | cancel | release | ckinit _ | ckfeed _ | frread _ | sreset => exact BitVec.getLsbD_zero

/-! ### The statements -/

/-- Settles O58: `exec_writtenBy`, part by part. -/
theorem eachPartHasItsWriters : Obligations.EachPartHasItsWriters := by
  intro i s t h hi
  obtain ⟨hchecksum, hsetup, hreassembler, houtput, hbufmax, hport⟩ := exec_writtenBy h hi
  exact ⟨hchecksum, hsetup, hreassembler, houtput, hbufmax, hport⟩

/-- Settles O34: `exec_stickyBut`, and the bits an operation names. -/
theorem stickyBitsStayUntilCleared : Obligations.StickyBitsStayUntilCleared := by
  intro i s t h hi
  obtain ⟨hnoise, hmism, hovf, hovr, herr⟩ := exec_stickyBut h hi
  exact ⟨fun hs hd => hnoise hs (clearedBits_getLsbD_eq_false hd), fun hs hd => hmism hs (clearedBits_getLsbD_eq_false hd),
    fun hs hd => hovf hs (clearedBits_getLsbD_eq_false hd), fun hs hd => hovr hs (clearedBits_getLsbD_eq_false hd),
    fun hs hd => herr hs (clearedBits_getLsbD_eq_false hd)⟩

/-- Settles O42: the byte procedures complete, keep the host's side and a held frame, and clear no sticky bit. -/
theorem pushCompletes : Obligations.PushCompletes := by
  refine ⟨wordsMean_row (.push false 0), fun s sof b hlegal => ?_⟩
  obtain ⟨-, -, hbufmax, -⟩ := hlegal
  obtain ⟨u, hu⟩ := State.pushByte_completes (s := s) (by omega) sof b
  obtain ⟨hhost, hsticky⟩ := State.pushByte_frame hu
  refine ⟨_, exec_push_of_ok hu, ?_, hsticky.noise, hsticky.mism, hsticky.ovf, hsticky.ovr, fun hheld => ?_⟩
  · rw [State.respond, hhost.bufmax, hhost.slots, hhost.ie, hhost.err, hhost.ckKind, hhost.ckCnt, hhost.ckAcc, hhost.ckP1,
      hhost.ckP2, hhost.ckB1, hhost.ckB2, hhost.port]
  · obtain ⟨hv, hlen, hschema, hckok, hobuf⟩ := State.pushByte_heldOutput hheld hu
    exact ⟨hv.trans hheld, hlen, hschema, hckok, hobuf⟩

end Sys2Proof.Machine
end

section
/-! PROOFS. The invariants of 10_state.md R46 and the model's own: a predicate that every operation keeps is kept by every
step, and each clause under each operation. -/

namespace Sys2Proof.Machine

/-! ### From operations to steps -/

/-- A predicate that does not read the port and is kept by every operation and by raising a code is kept by every step:
the reset event is SRESET's. -/
theorem step_keeps {P : State → Prop} (hport : ∀ s port, P s → P { s with port := port })
    (hresponse : ∀ s response, P s → P { s with response := response }) (hraise : ∀ s c, P s → P (s.raise c))
    (hexec : ∀ i s t, P s → exec i s = .next t → P t) {s t : State} (hs : P s) (h : step s = .next t) : P t := by
  cases hp : s.port with
  | nil =>
    rw [step_of_port_nil hp] at h
    cases h
    exact hs
  | cons x rest =>
    have hs' := hport s rest hs
    cases x with
    | reset =>
      rw [step_of_port_reset hp] at h
      cases h
      exact hresponse _ none (hexec .sreset _ _ hs' rfl)
    | op w =>
      rw [step_of_port_op hp] at h
      cases hw : decode w with
      | ok i => exact hexec i _ t hs' (performWord_of_ok hw _ ▸ h)
      | error e =>
        rw [performWord_of_error hw] at h
        cases h
        exact hraise _ _ hs'

/-! ### The buffers -/

theorem State.BuffersInv.congr {s t : State} (hs : s.BuffersInv) (hrbuf : t.rbuf = s.rbuf) (hobuf : t.obuf = s.obuf)
    (hbufmax : t.bufmax = s.bufmax) : t.BuffersInv := by
  rw [State.BuffersInv, hrbuf, hobuf, hbufmax]
  exact hs

/-- A write below BUFMAX keeps a buffer canonical and its indexes below BUFMAX. -/
theorem Memory.write_bounded {m : Memory} {i n : Nat} (hi : i < n) (b : Byte) (hm : m.wf ∧ ∀ c ∈ m, c.1 < n) :
    (m.write i b).wf ∧ ∀ c ∈ m.write i b, c.1 < n := by
  obtain ⟨hwf, hbound⟩ := hm
  refine ⟨Memory.write_wf hwf i b, fun c hc => ?_⟩
  rcases Memory.mem_write hc with hc | rfl
  · exact hbound c hc
  · exact hi

/-- So does a copy of at most BUFMAX bytes. -/
theorem Memory.copy_bounded (src : Memory) {dst : Memory} {len n : Nat} (hlen : len ≤ n)
    (hdst : dst.wf ∧ ∀ c ∈ dst, c.1 < n) : (src.copy dst len).wf ∧ ∀ c ∈ src.copy dst len, c.1 < n := by
  obtain ⟨hwf, hbound⟩ := hdst
  refine ⟨Memory.copy_wf src hwf len, fun c hc => ?_⟩
  rcases Memory.mem_copy hc with hc | hc
  · exact hbound c hc
  · omega

theorem State.emit_buffersInv {s : State} {j len : Nat} (hlen : len ≤ s.bufmax) (hs : s.BuffersInv) :
    (s.emit j len).BuffersInv := by
  cases hout : s.outv with
  | true => rw [State.emit_of_held hout]; exact hs
  | false =>
    rw [State.emit_of_free hout]
    exact ⟨hs.1, Memory.copy_bounded s.rbuf hlen hs.2⟩

/-- EXPLEN of a well-formed slot is at least 2 and at most BUFMAX (10_state.md R33). -/
theorem State.explen_of_wellFormed {s : State} {j : Nat} (h : s.wellFormed j = true) :
    2 ≤ (s.slotAt j).explen.toNat ∧ (s.slotAt j).explen.toNat ≤ s.bufmax := by
  obtain ⟨hrhlen, -, -, hlow, hhigh⟩ := Slot.wellFormed_iff.1 h
  have := ckLen_pos (s.slotAt j).kind
  omega

theorem keptByPush_buffersInv : KeptByPush State.BuffersInv where
  clearRq _ h := h
  seed _ h := h
  dropNoise _ h := h
  dropMismatch _ h := h
  dropOverflow _ h := h
  appended _ b hpos h := ⟨Memory.write_bounded hpos b h.1, h.2⟩
  toAccum _ _ _ h := h
  keepCandidates _ _ _ _ _ h := h
  complete _ _ hwf h := State.emit_buffersInv (State.explen_of_wellFormed hwf).2 h

theorem State.buffersInv_of_empty {s : State} (hrbuf : s.rbuf = []) (hobuf : s.obuf = []) : s.BuffersInv := by
  rw [State.BuffersInv, hrbuf, hobuf]
  exact ⟨⟨Memory.wf_nil, by simp⟩, ⟨Memory.wf_nil, by simp⟩⟩

theorem exec_buffersInv (i : Instr) (s t : State) (hs : s.BuffersInv) (h : exec i s = .next t) : t.BuffersInv := by
  cases i with
  | push sof b =>
    obtain ⟨u, hu, rfl⟩ := execPush_eq_next_iff.1 h
    exact (keptByPush_buffersInv.pushByte hs hu :)
  | release => obtain ⟨-, rfl⟩ | ⟨-, rfl⟩ := execRelease_eq_next_iff.1 h <;> exact hs
  | cancel => cases h; exact hs
  | sreset => cases h; exact State.buffersInv_of_empty rfl rfl
  | nop | wrreg _ _ | rdreg _ | ckinit _ | ckfeed _ | frread _ =>
    have hw := exec_writtenBy h (by simp)
    obtain ⟨-, -, -, -, -, -, hrbuf⟩ := hw.reassembler rfl (by simp)
    obtain ⟨-, -, -, -, hobuf⟩ := hw.output (.inl rfl) (by simp)
    exact hs.congr hrbuf hobuf hw.bufmax

/-! ### The reserved bits -/

theorem and_mask_and_not_mask {n : Nat} (x m : BitVec n) : x &&& m &&& ~~~m = 0 := by
  rw [BitVec.and_assoc, BitVec.and_not_self]
  exact BitVec.and_zero

/-- The reserved bits of SCFG are 0 in the slot that replaces one (10_state.md R27). -/
theorem State.setSlot_reservedInv {s : State} {j : Nat} {x : Slot} (hx : x.scfg &&& ~~~scfgMask = 0)
    (hs : s.ReservedInv) : (s.setSlot j x).ReservedInv := by
  obtain ⟨hie, hslots, hcandr, hcandn⟩ := hs
  rw [State.ReservedInv, State.setSlot_nschema]
  refine ⟨hie, fun y hy => ?_, hcandr, hcandn⟩
  rcases List.mem_or_eq_of_mem_set hy with hy | rfl
  · exact hslots y hy
  · exact hx

theorem State.slotAt_mem_or_eq_reset (s : State) (j : Nat) : s.slotAt j ∈ s.slots ∨ s.slotAt j = Slot.reset := by
  rw [State.slotAt, List.getD_eq_getElem?_getD]
  cases hj : s.slots[j]? with
  | none => exact .inr rfl
  | some x => exact .inl (List.mem_of_getElem? hj)

theorem State.slotAt_scfg_reserved {s : State} (hs : s.ReservedInv) (j : Nat) :
    (s.slotAt j).scfg &&& ~~~scfgMask = 0 := by
  rcases s.slotAt_mem_or_eq_reset j with hj | hj
  · exact hs.2.1 _ hj
  · rw [hj]; rfl

theorem State.writeReg_reservedInv {s : State} (hs : s.ReservedInv) (d : Word) (r : Reg) :
    (s.writeReg d r).ReservedInv := by
  cases r with
  | ie => exact ⟨and_mask_and_not_mask d ieMask, hs.2⟩
  | scfg j => exact State.setSlot_reservedInv (and_mask_and_not_mask d scfgMask) hs
  | explen j | rhdr01 j | rhdr23 j | nhdr01 j | nhdr23 j =>
    exact State.setSlot_reservedInv (s.slotAt_scfg_reserved hs j) hs
  | status | param0 | param1 | fsmstat | fsmpos | outinfo | outlen | cfgerr | ckstat | ckres | ckcnt | cand => exact hs

/-- IE and the slots as before, the candidate masks within the slots. -/
theorem State.ReservedInv.of_candidates {s t : State} (hs : s.ReservedInv) (hie : t.ie = s.ie) (hslots : t.slots = s.slots)
    (hcandr : t.candr.toNat < 2 ^ s.nschema) (hcandn : t.candn.toNat < 2 ^ s.nschema) : t.ReservedInv := by
  rw [State.ReservedInv, State.nschema_congr hslots, hie, hslots]
  exact ⟨hs.1, hs.2.1, hcandr, hcandn⟩

/-- With no candidate, only IE and the slots have reserved bits. -/
theorem State.ReservedInv.of_idle {s t : State} (hs : s.ReservedInv) (hie : t.ie = s.ie) (hslots : t.slots = s.slots)
    (hcandr : t.candr = 0) (hcandn : t.candn = 0) : t.ReservedInv :=
  hs.of_candidates hie hslots (hcandr ▸ Nat.two_pow_pos _) (hcandn ▸ Nat.two_pow_pos _)

theorem State.ReservedInv.congr {s t : State} (hs : s.ReservedInv) (hie : t.ie = s.ie) (hslots : t.slots = s.slots)
    (hcandr : t.candr = s.candr) (hcandn : t.candn = s.candn) : t.ReservedInv := by
  rw [State.ReservedInv, State.nschema_congr hslots, hie, hslots, hcandr, hcandn]
  exact hs

theorem keptByPush_reservedInv : KeptByPush State.ReservedInv where
  clearRq _ h := h.congr rfl rfl rfl rfl
  seed s h := h.of_candidates rfl rfl (by rw [State.seed_candr]; exact slotSet_toNat_lt _ _)
    (by rw [State.seed_candn]; exact slotSet_toNat_lt _ _)
  dropNoise _ h := h.of_idle rfl rfl rfl rfl
  dropMismatch _ h := h.of_idle rfl rfl rfl rfl
  dropOverflow _ h := h.of_idle rfl rfl rfl rfl
  appended _ _ _ h := h.congr rfl rfl rfl rfl
  toAccum _ _ _ h := h.of_idle rfl rfl rfl rfl
  keepCandidates _ _ _ hcn hcr h := h.of_candidates rfl rfl hcr hcn
  complete s j _ h := by
    obtain ⟨hhost, -⟩ := s.complete_frame j (s.slotAt j).explen.toNat
    exact h.of_idle hhost.ie hhost.slots rfl rfl

theorem State.reservedInv_resetOf (n b : Nat) : (State.resetOf n b).ReservedInv := by
  refine ⟨BitVec.zero_and, fun x hx => ?_, Nat.two_pow_pos _, Nat.two_pow_pos _⟩
  rw [List.eq_of_mem_replicate hx]
  decide

theorem exec_reservedInv (i : Instr) (s t : State) (hs : s.ReservedInv) (h : exec i s = .next t) : t.ReservedInv := by
  cases i with
  | push sof b =>
    obtain ⟨u, hu, rfl⟩ := execPush_eq_next_iff.1 h
    exact (keptByPush_reservedInv.pushByte hs hu :)
  | wrreg a d =>
    obtain ⟨-, rfl⟩ | ⟨r, -, -, rfl⟩ | ⟨r, -, -, rfl⟩ := execWrreg_eq_next_iff.1 h
    · exact hs
    · exact hs
    · exact s.writeReg_reservedInv hs d r
  | cancel => cases h; exact hs.of_idle rfl rfl rfl rfl
  | sreset => cases h; exact (State.reservedInv_resetOf s.nschema s.bufmax :)
  | nop | rdreg _ | release | ckinit _ | ckfeed _ | frread _ =>
    have hw := exec_writtenBy h (by simp)
    obtain ⟨hslots, hie⟩ := hw.setup (by simp)
    obtain ⟨-, -, -, -, hcandr, hcandn, -⟩ := hw.reassembler rfl (by simp)
    exact hs.congr hie hslots hcandr hcandn

/-! ### The output frame -/

theorem State.OutInv.congr {s t : State} (hs : s.OutInv) (hout : s.SameOutput t) (hbufmax : t.bufmax = s.bufmax) :
    t.OutInv := by
  obtain ⟨hv, hlen, hschema, hckok, -⟩ := hout
  rw [State.OutInv, hv, hlen, hschema, hckok, hbufmax]
  exact hs

theorem State.outInv_of_free {s : State} (hv : s.outv = false) (hlen : s.outLen = 0) (hschema : s.outSchema = 0)
    (hckok : s.outCkok = false) : s.OutInv :=
  ⟨fun _ => ⟨hlen, hschema, hckok⟩, fun hheld => absurd hheld (by simp [hv])⟩

/-- A completed frame has the length EXPLEN of its slot. -/
theorem State.complete_outInv {s : State} {j : Nat} (hwf : s.wellFormed j = true) (hs : s.OutInv) :
    (s.complete j (s.slotAt j).explen.toNat).OutInv := by
  cases hout : s.outv with
  | true => rw [State.complete_of_held hout]; exact hs
  | false =>
    rw [State.complete_of_free hout, BitVec.ofNat_toNat, BitVec.setWidth_eq]
    exact ⟨fun hfree => absurd hfree (by simp), fun _ => State.explen_of_wellFormed hwf⟩

theorem keptByPush_outInv : KeptByPush State.OutInv where
  clearRq _ h := h
  seed _ h := h
  dropNoise _ h := h
  dropMismatch _ h := h
  dropOverflow _ h := h
  appended _ _ _ h := h
  toAccum _ _ _ h := h
  keepCandidates _ _ _ _ _ h := h
  complete _ _ hwf h := State.complete_outInv hwf h

theorem exec_outInv (i : Instr) (s t : State) (hs : s.OutInv) (h : exec i s = .next t) : t.OutInv := by
  cases i with
  | push sof b =>
    obtain ⟨u, hu, rfl⟩ := execPush_eq_next_iff.1 h
    exact (keptByPush_outInv.pushByte hs hu :)
  | release =>
    obtain ⟨-, rfl⟩ | ⟨-, rfl⟩ := execRelease_eq_next_iff.1 h
    · exact hs
    · exact State.outInv_of_free rfl rfl rfl rfl
  | sreset => cases h; exact State.outInv_of_free rfl rfl rfl rfl
  | nop | wrreg _ _ | rdreg _ | cancel | ckinit _ | ckfeed _ | frread _ =>
    have hw := exec_writtenBy h (by simp)
    exact hs.congr (hw.output (.inl rfl) (by simp)) hw.bufmax

/-! ### The checksum unit -/

/-- For SUM the accumulator has no high byte after a byte is fed (10_state.md R46). -/
theorem ckAccumulate_sum_highByte (acc : Word) (b : Byte) : (ckAccumulate .sum acc b).extractLsb' 8 8 = 0 := by
  have hsmall : (ckAccumulate .sum acc b).toNat < 2 ^ 8 := by
    rw [ckAccumulate_sum_toNat]
    exact Nat.mod_lt _ (by omega)
  apply BitVec.eq_of_toNat_eq
  rw [BitVec.extractLsb'_toNat, Nat.shiftRight_eq_div_pow, Nat.div_eq_of_lt hsmall]
  rfl

theorem ckInitial_sum_highByte : (ckInitial .sum).extractLsb' 8 8 = 0 := by decide

theorem State.CkInv.congr {s t : State} (hs : s.CkInv) (hck : s.SameChecksum t) : t.CkInv := by
  obtain ⟨hkind, -, hacc, hp1, hp2, -, -⟩ := hck
  rw [State.CkInv, hkind, hacc, hp1, hp2]
  exact hs

theorem exec_ckInv (i : Instr) (s t : State) (hs : s.CkInv) (h : exec i s = .next t) : t.CkInv := by
  cases i with
  | ckinit k =>
    cases h
    rintro rfl
    exact ⟨ckInitial_sum_highByte, ckInitial_sum_highByte, ckInitial_sum_highByte⟩
  | ckfeed b =>
    cases h
    intro hsum
    obtain ⟨hacc, hp1, -⟩ := hs hsum
    exact ⟨hsum ▸ ckAccumulate_sum_highByte s.ckAcc b, hacc, hp1⟩
  | sreset => cases h; exact fun hsum => by cases hsum
  | nop | push _ _ | wrreg _ _ | rdreg _ | cancel | release | frread _ =>
    exact hs.congr ((exec_writtenBy h (by simp)).checksum (by simp) (by simp))

/-! ### The reassembler -/

theorem State.FsmInv.congr {s t : State} (hs : s.FsmInv) (hfsm : s.SameReassembler t) (hconfig : s.SameConfig t) :
    t.FsmInv := by
  obtain ⟨hfsm, hpos, hslot, hrq, hcandr, hcandn, -⟩ := hfsm
  rw [State.FsmInv, hfsm, hpos, hslot, hrq, hcandr, hcandn, hconfig.nschema, hconfig.bufmax]
  exact hs

/-- The state GOIDLE leaves (41_reassembler.md R128) meets R46's clauses, whatever RQ is. -/
theorem State.fsmInv_of_idle {s : State} (hn : 0 < s.nschema) (hfsm : s.fsm = .idle) (hpos : s.pos = 0)
    (hslot : s.slot = 0) (hcandr : s.candr = 0) (hcandn : s.candn = 0) : s.FsmInv := by
  refine ⟨fun _ => ⟨hpos, hslot, hcandr, hcandn⟩, fun h => ?_, fun h => ?_, by rw [hslot]; exact hn, fun _ => hfsm⟩
  · rw [hfsm] at h; cases h
  · rw [hfsm] at h; cases h

/-- A candidate that goes on has at least one more byte of its header to match, so at most three have matched. -/
theorem State.pos_lt_three_of_candidate {s : State} {b : Byte} (hadvance : s.hdrResult b = .advance)
    (hnone : s.responseComplete b = none) : s.pos.toNat < 3 := by
  have hnoise : ¬ ∃ j, s.NoiseStillMatches b j ∧ (s.slotAt j).nhlen = s.pos.toNat + 1 := by
    rw [← State.hdrResult_eq_noise, hadvance]
    simp
  have hresp := State.responseComplete_eq_none.1 hnone
  have hsome : ∃ j, s.NoiseStillMatches b j ∨ s.ResponseStillMatches b j := by
    by_contra hno
    have hmismatch : s.hdrResult b = .mismatch := State.hdrResult_eq_mismatch.2 fun j => not_or.1 (not_exists.1 hno j)
    rw [hadvance] at hmismatch
    cases hmismatch
  obtain ⟨j, hj | hj⟩ := hsome
  · have hlen : (s.slotAt j).nhlen ≠ s.pos.toNat + 1 := fun hlen => hnoise ⟨j, hj, hlen⟩
    obtain ⟨-, he, hlt, -⟩ := hj
    have := (Slot.eligible_iff.1 he).2.2.2.1
    omega
  · have hlen : (s.slotAt j).rhlen ≠ s.pos.toNat + 1 := fun hlen => hresp ⟨j, hj, hlen⟩
    obtain ⟨-, he, hlt, -⟩ := hj
    have := (Slot.eligible_iff.1 he).2.2.1
    omega

theorem State.candidates_ne_zero_of_advance {s : State} {b : Byte} (h : s.hdrResult b = .advance) :
    s.responseMatches b ||| s.noiseMatches b ≠ 0 := by
  intro hzero
  have hmismatch : s.hdrResult b = .mismatch := by
    rw [State.hdrResult_eq_mismatch_iff]
    exact (BitVec.or_eq_zero_iff.1 hzero).symm
  rw [h] at hmismatch
  cases hmismatch

theorem State.succ_pos_toNat {s : State} {n : Nat} (h : s.pos.toNat < n) (hn : n < 2 ^ 16) :
    (s.pos + 1).toNat = s.pos.toNat + 1 := by
  bv_omega

/-- The header match that advances ends in an accumulation or keeps a candidate (41_reassembler.md R124). -/
theorem State.hdrAdvance_fsmInv {s t : State} {b : Byte} (hlegal : s.Legal) (hhdr : s.fsm = .hdr) (hrq : s.rq = false)
    (hslot : s.slot.toNat < s.nschema) (hadvance : s.hdrResult b = .advance) (h : s.hdrAdvance b = .ok t) : t.FsmInv := by
  obtain ⟨-, hn, hbufmax, -⟩ := hlegal
  have hpos4 := State.pos_lt_four_of_advance hadvance
  have hsucc : (s.pos + 1).toNat = s.pos.toNat + 1 := State.succ_pos_toNat hpos4 (by decide)
  obtain ⟨u, hu, hcases⟩ := State.hdrAdvance_eq_ok_iff.1 h
  obtain ⟨-, rfl⟩ : _ ∧ u = s.appended b := State.append_eq_ok_iff.1 hu
  obtain ⟨j, hj, rfl⟩ | ⟨hnone, rfl⟩ := hcases
  · have hlt : j < s.nschema := State.lt_nschema_of_eligible (State.eligible_of_responseComplete (s := s) hj)
    have hslot' : (BitVec.ofNat 3 j).toNat < s.nschema := by rw [BitVec.toNat_ofNat]; omega
    have hbound : (s.pos + 1).toNat ≤ s.bufmax - 1 := by omega
    exact ⟨fun hidle => (by cases hidle), fun hhdr' => (by cases hhdr'),
      fun _ => ⟨rfl, rfl, hsucc ▸ Nat.le_add_left 1 _, hbound, hrq⟩, hslot', fun hrq' => absurd (hrq.symm.trans hrq') (by simp)⟩
  · have hpos3 := State.pos_lt_three_of_candidate hadvance hnone
    have hbound : (s.pos + 1).toNat ≤ 3 := by omega
    refine ⟨fun hidle => ?_, fun _ => ⟨hsucc ▸ Nat.le_add_left 1 _, hbound,
      State.candidates_ne_zero_of_advance hadvance, hrq⟩, fun haccum => ?_, hslot,
      fun hrq' => absurd (hrq.symm.trans hrq') (by simp)⟩
    · exact absurd (hhdr.symm.trans hidle) (by simp)
    · exact absurd (hhdr.symm.trans haccum) (by simp)

theorem State.start_fsmInv {s t : State} {b : Byte} (hlegal : s.Legal) (hrq : s.rq = false)
    (hslot : s.slot.toNat < s.nschema) (h : s.start b = .ok t) : t.FsmInv := by
  obtain ⟨-, rfl⟩ | ⟨-, rfl⟩ | ⟨hadvance, h⟩ := State.start_eq_ok_iff.1 h
  · exact State.fsmInv_of_idle hlegal.1 rfl rfl rfl rfl rfl
  · exact State.fsmInv_of_idle hlegal.1 rfl rfl rfl rfl rfl
  · exact State.hdrAdvance_fsmInv (s := s.seed) hlegal rfl hrq hslot hadvance h

theorem State.hdrByte_fsmInv {s t : State} {b : Byte} {sof : Bool} (hlegal : s.Legal) (hhdr : s.fsm = .hdr)
    (hrq : s.rq = false) (hslot : s.slot.toNat < s.nschema) (h : s.hdrByte b sof = .ok t) : t.FsmInv := by
  obtain ⟨-, rfl⟩ | ⟨-, -, rfl⟩ | ⟨-, -, -, h⟩ | ⟨hadvance, h⟩ := State.hdrByte_eq_ok_iff.1 h
  · exact State.fsmInv_of_idle hlegal.1 rfl rfl rfl rfl rfl
  · exact State.fsmInv_of_idle hlegal.1 rfl rfl rfl rfl rfl
  · exact State.start_fsmInv (s := s.dropMismatch) hlegal hrq hlegal.1 h
  · exact State.hdrAdvance_fsmInv hlegal hhdr hrq hslot hadvance h

/-- An accumulation that goes on is below EXPLEN, so below BUFMAX (R126). -/
theorem State.accByte_fsmInv {s t : State} {b : Byte} {sof : Bool} (hlegal : s.Legal) (hs : s.FsmInv)
    (haccum : s.fsm = .accum) (h : s.accByte b sof = .ok t) : t.FsmInv := by
  obtain ⟨-, -, hinv, hslot, -⟩ := hs
  obtain ⟨hcandr, hcandn, -, -, hrq⟩ := hinv haccum
  obtain ⟨-, ⟨-, h⟩ | ⟨-, rfl⟩⟩ | ⟨hwf, hpos, u, hu, hcases⟩ := State.accByte_eq_ok_iff.1 h
  · exact State.start_fsmInv (s := s.dropOverflow) hlegal hrq hlegal.1 h
  · exact State.fsmInv_of_idle hlegal.1 rfl rfl rfl rfl rfl
  · obtain ⟨-, rfl⟩ : _ ∧ u = s.appended b := State.append_eq_ok_iff.1 hu
    have hexplen := (State.explen_of_wellFormed hwf).2
    obtain ⟨-, rfl⟩ | ⟨hmore, rfl⟩ := hcases
    · have hframe := ((s.appended b).complete_frame s.slot.toNat (s.slotAt s.slot.toNat).explen.toNat).1
      exact State.fsmInv_of_idle (by rw [State.nschema_congr hframe.slots]; exact hlegal.1) rfl rfl rfl rfl rfl
    · have hsucc : (s.pos + 1).toNat = s.pos.toNat + 1 :=
        State.succ_pos_toNat hpos (s.slotAt s.slot.toNat).explen.isLt
      have hbound : (s.pos + 1).toNat ≤ s.bufmax - 1 := by omega
      refine ⟨fun hidle => ?_, fun hhdr => ?_, fun _ => ⟨hcandr, hcandn, hsucc ▸ Nat.le_add_left 1 _, hbound, hrq⟩, hslot,
        fun hrq' => absurd (hrq.symm.trans hrq') (by simp)⟩
      · exact absurd (haccum.symm.trans hidle) (by simp)
      · exact absurd (haccum.symm.trans hhdr) (by simp)

theorem State.pushByte_fsmInv {s t : State} {sof : Bool} {b : Byte} (hlegal : s.Legal) (hs : s.FsmInv)
    (h : s.pushByte sof b = .ok t) : t.FsmInv := by
  obtain ⟨hidle, hhdr, haccum, hslot, -⟩ := id hs
  obtain ⟨hfsm, -, -, rfl⟩ | ⟨-, -, h⟩ | ⟨hfsm, h⟩ | ⟨hfsm, h⟩ := State.pushByte_eq_ok_iff.1 h
  · obtain ⟨hpos, hslot0, hcandr, hcandn⟩ := hidle hfsm
    exact State.fsmInv_of_idle hlegal.1 hfsm hpos hslot0 hcandr hcandn
  · exact State.start_fsmInv (s := s.clearRq) hlegal rfl hslot h
  · exact State.hdrByte_fsmInv (s := s.clearRq) hlegal hfsm rfl hslot h
  · obtain ⟨-, -, -, -, hrq⟩ := haccum hfsm
    rw [State.clearRq_of_rq_false hrq] at h
    exact State.accByte_fsmInv hlegal hs hfsm h

theorem exec_fsmInv (i : Instr) (s t : State) (hlegal : s.Legal) (hs : s.FsmInv) (h : exec i s = .next t) :
    t.FsmInv := by
  cases i with
  | push sof b =>
    obtain ⟨u, hu, rfl⟩ := execPush_eq_next_iff.1 h
    exact (State.pushByte_fsmInv hlegal hs hu :)
  | cancel => cases h; exact State.fsmInv_of_idle hlegal.1 rfl rfl rfl rfl rfl
  | sreset =>
    have hn := (exec_sameConfig h).nschema
    cases h
    exact State.fsmInv_of_idle (hn ▸ hlegal.1) rfl rfl rfl rfl rfl
  | nop | wrreg _ _ | rdreg _ | release | ckinit _ | ckfeed _ | frread _ =>
    exact hs.congr ((exec_writtenBy h (by simp)).reassembler rfl (by simp)) (exec_sameConfig h)

/-! ### The invariants together -/

theorem exec_specInv (i : Instr) (s t : State) (hs : s.SpecInv) (h : exec i s = .next t) : t.SpecInv := by
  obtain ⟨hlegal, hfsm, hout, hck⟩ := hs
  have hlegal' : t.Legal := by
    rw [State.Legal, (exec_sameConfig h).nschema, (exec_sameConfig h).bufmax]
    exact hlegal
  exact ⟨hlegal', exec_fsmInv i s t hlegal hfsm h, exec_outInv i s t hout h, exec_ckInv i s t hck h⟩

theorem State.resetOf_specInv {n b : Nat} (h : Config.Legal n b) : (State.resetOf n b).SpecInv := by
  have hn := State.resetOf_nschema n b
  refine ⟨by rw [State.Legal, hn]; exact h, State.fsmInv_of_idle (by rw [hn]; exact h.1) rfl rfl rfl rfl rfl,
    State.outInv_of_free rfl rfl rfl rfl, fun hsum => by cases hsum⟩

/-! ### The statements -/

/-- Settles O52: every operation keeps the clauses of R46, so every step does. -/
theorem stepKeepsTheSpecInvariants : Obligations.StepKeepsTheSpecInvariants := fun _ _ =>
  step_keeps (P := State.SpecInv) (fun _ _ h => h) (fun _ _ h => h) (fun _ _ h => h) exec_specInv

/-- Settles O54: every operation keeps the buffers' form and the reserved bits, so every step does. -/
theorem stepKeepsBuffersAndReservedBits : Obligations.StepKeepsBuffersAndReservedBits := fun _ _ hbuffers hreserved h =>
  ⟨step_keeps (P := State.BuffersInv) (fun _ _ h => h) (fun _ _ h => h) (fun _ _ h => h) exec_buffersInv hbuffers h,
    step_keeps (P := State.ReservedInv) (fun _ _ h => h) (fun _ _ h => h) (fun _ _ h => h) exec_reservedInv hreserved h⟩

/-- Settles O53: the reset state is idle, with the output free and empty buffers. -/
theorem resetMeetsTheInvariants : Obligations.ResetMeetsTheInvariants := by
  have hreset : ∀ n b : Nat, Config.Legal n b →
      (State.resetOf n b).SpecInv ∧ (State.resetOf n b).BuffersInv ∧ (State.resetOf n b).ReservedInv := fun n b h =>
    ⟨State.resetOf_specInv h, State.buffersInv_of_empty rfl rfl, State.reservedInv_resetOf n b⟩
  exact ⟨hreset, hreset Config.nschemaRef Config.bufmaxRef (by decide)⟩

/-- Settles O55: every word completes when BUFMAX has room for a header and for the held frame, as R46 says. -/
theorem invariantStatesNeverStop : Obligations.InvariantStatesNeverStop := by
  rintro s ⟨⟨-, -, hbufmax, -⟩, -, ⟨-, hout⟩, -⟩
  cases hp : s.port with
  | nil => exact ⟨_, step_of_port_nil hp⟩
  | cons x rest =>
    cases x with
    | reset => exact ⟨_, step_of_port_reset hp⟩
    | op w =>
      rw [step_of_port_op hp]
      exact performWord_completes (s := { s with port := rest }) (Nat.le_trans (by decide) hbufmax)
        (fun hheld => (hout hheld).2) w

end Sys2Proof.Machine
end

section
/-! PROOFS. What an operation does not read: two runs of PUSH from related states, the parts of the state that it carries
along unread, the port under a run, IE, the byte stream beside the host's reads, and the block right after reset. -/

namespace Sys2Proof.Machine

/-! ### Two runs of PUSH -/

/-- The states are related, or the procedures have stopped with the same fault. -/
def procRel (R : State → State → Prop) : Except Fault State → Except Fault State → Prop
  | .ok s, .ok t => R s t
  | .error e, .error f => e = f
  | .ok _, .error _ | .error _, .ok _ => False

/-- Two states that `R` relates take the same branch at every test of the byte procedures of PUSH, and every update they
make keeps `R` (41_reassembler.md R122 to R128). A frame is completed at the length POS has reached. -/
structure PushSimulation (R : State → State → Prop) : Prop where
  fsm : ∀ {s t}, R s t → t.fsm = s.fsm
  rq : ∀ {s t}, R s t → t.rq = s.rq
  pos : ∀ {s t}, R s t → t.pos = s.pos
  slot : ∀ {s t}, R s t → t.slot = s.slot
  slots : ∀ {s t}, R s t → t.slots = s.slots
  bufmax : ∀ {s t}, R s t → t.bufmax = s.bufmax
  hdrResult : ∀ {s t} b, R s t → t.hdrResult b = s.hdrResult b
  responseComplete : ∀ {s t} b, R s t → t.responseComplete b = s.responseComplete b
  clearRq : ∀ {s t}, R s t → R s.clearRq t.clearRq
  seed : ∀ {s t}, R s t → R s.seed t.seed
  dropNoise : ∀ {s t}, R s t → R s.dropNoise t.dropNoise
  dropMismatch : ∀ {s t}, R s t → R s.dropMismatch t.dropMismatch
  dropOverflow : ∀ {s t}, R s t → R s.dropOverflow t.dropOverflow
  appended : ∀ {s t} b, R s t → R (s.appended b) (t.appended b)
  toAccum : ∀ {s t} j, R s t → R (s.toAccum j) (t.toAccum j)
  keepMatches : ∀ {s t u v} b, R s t → R u v →
    R (u.keepCandidates (s.noiseMatches b) (s.responseMatches b))
      (v.keepCandidates (t.noiseMatches b) (t.responseMatches b))
  complete : ∀ {s t} j len, R s t → s.pos.toNat = len → R (s.complete j len) (t.complete j len)

/-- `append` in terms of `appended`: the one test is the index's. -/
theorem State.append_eq_ite (s : State) (b : Byte) :
    s.append b = if s.pos.toNat < s.bufmax then .ok (s.appended b) else .error (.rbufIndex s.pos.toNat) := by
  unfold State.append State.writeRbuf
  by_cases h : s.pos.toNat < s.bufmax
  · rw [if_pos h, if_pos h]; rfl
  · rw [if_neg h, if_neg h]

section
variable {R : State → State → Prop} (hR : PushSimulation R) {s t : State} (h : R s t) (b : Byte)
include hR h

theorem PushSimulation.hdrAdvance : procRel R (s.hdrAdvance b) (t.hdrAdvance b) := by
  rw [State.hdrAdvance, State.hdrAdvance, State.append_eq_ite, State.append_eq_ite, hR.pos h, hR.bufmax h,
    hR.responseComplete b h]
  by_cases hroom : s.pos.toNat < s.bufmax
  · rw [if_pos hroom, if_pos hroom]
    cases s.responseComplete b with
    | some j => exact hR.toAccum j (hR.appended b h)
    | none => exact hR.keepMatches b h (hR.appended b h)
  · rw [if_neg hroom, if_neg hroom]
    rfl

theorem PushSimulation.start : procRel R (s.start b) (t.start b) := by
  rw [State.start, State.start, hR.hdrResult b (hR.seed h)]
  cases s.seed.hdrResult b with
  | noise => exact hR.dropNoise (hR.seed h)
  | mismatch => exact hR.dropMismatch (hR.seed h)
  | advance => exact hR.hdrAdvance (hR.seed h) b

theorem PushSimulation.hdrByte (sof : Bool) : procRel R (s.hdrByte b sof) (t.hdrByte b sof) := by
  rw [State.hdrByte, State.hdrByte, hR.hdrResult b h, hR.pos h]
  cases s.hdrResult b with
  | noise => exact hR.dropNoise h
  | mismatch =>
    dsimp only
    split
    · exact hR.start (hR.dropMismatch h) b
    · exact hR.dropMismatch h
  | advance => exact hR.hdrAdvance h b

theorem PushSimulation.accByte (sof : Bool) : procRel R (s.accByte b sof) (t.accByte b sof) := by
  rw [State.accByte, State.accByte, State.append_eq_ite, State.append_eq_ite, hR.slot h, hR.pos h, hR.bufmax h,
    State.wellFormed_congr (hR.slots h) (hR.bufmax h), State.slotAt_congr (hR.slots h)]
  split
  · split
    · exact hR.start (hR.dropOverflow h) b
    · exact hR.dropOverflow h
  · by_cases hroom : s.pos.toNat < s.bufmax
    · rw [if_pos hroom, if_pos hroom]
      dsimp only
      split
      case isTrue hlast =>
        have hpos : (s.appended b).pos.toNat = (s.slotAt s.slot.toNat).explen.toNat :=
          (State.succ_pos_toNat (hlast ▸ Nat.lt_succ_self _) (s.slotAt s.slot.toNat).explen.isLt).trans hlast
        exact hR.complete _ _ (hR.appended b h) hpos
      case isFalse => exact hR.appended b h
    · rw [if_neg hroom, if_neg hroom]
      rfl

theorem PushSimulation.pushByte (sof : Bool) : procRel R (s.pushByte sof b) (t.pushByte sof b) := by
  rw [State.pushByte, State.pushByte, hR.fsm h, hR.rq h]
  cases s.fsm with
  | idle =>
    dsimp only
    split
    · exact hR.start (hR.clearRq h) b
    · exact hR.clearRq h
  | hdr => exact hR.hdrByte (hR.clearRq h) b _
  | accum => exact hR.accByte (hR.clearRq h) b _

/-- PUSH on two related states, up to what the response adds. -/
theorem PushSimulation.exec_push (sof : Bool) :
    outcomeRel (fun u v => ∃ u' v', R u' v' ∧ u = u'.respond .ok 0x0000 ∧ v = v'.respond .ok 0x0000)
      (exec (.push sof b) s) (exec (.push sof b) t) := by
  have hpush := hR.pushByte h b sof
  simp only [exec, execPush]
  cases hs : s.pushByte sof b <;> cases ht : t.pushByte sof b <;> rw [hs, ht] at hpush
  · exact hpush
  · cases hpush
  · cases hpush
  · exact ⟨_, _, hpush, rfl, rfl⟩

end

theorem outcomeRel.mono {R R' : State → State → Prop} {o o' : Host.Outcome State Fault Refusal}
    (h : outcomeRel R o o') (hRR' : ∀ u v, R u v → R' u v) : outcomeRel R' o o' := by
  cases o <;> cases o' <;> first | exact hRR' _ _ h | exact h

/-- The end of a completed frame, by whether a frame is held (R127). -/
theorem State.complete_eq_ite (s : State) (j len : Nat) :
    s.complete j len =
      if s.outv then
        { s with ovr := true, fsm := .idle, pos := 0, slot := 0, candr := 0, candn := 0, rq := true }
      else
        { s with obuf := s.rbuf.copy s.obuf len, outLen := BitVec.ofNat 16 len, outSchema := BitVec.ofNat 3 j,
                 outCkok := validate (s.slotAt j).kind (s.rbuf.bytes len), outv := true,
                 fsm := .idle, pos := 0, slot := 0, candr := 0, candn := 0, rq := true } := by
  split
  case isTrue hheld => exact State.complete_of_held hheld j len
  case isFalse hfree => exact State.complete_of_free (by simpa using hfree) j len

/-! ### What PUSH carries along -/

/-- A change of the parts of the state that PUSH neither reads nor writes: IE, ERR, the checksum unit, the response and
the port. -/
structure HostChange where
  ie : Word → Word := id
  err : Bool → Bool := id
  ckKind : Kind → Kind := id
  ckCnt : Word → Word := id
  ckAcc : Word → Word := id
  ckP1 : Word → Word := id
  ckP2 : Word → Word := id
  ckB1 : Byte → Byte := id
  ckB2 : Byte → Byte := id
  response : Option Response → Option Response := id
  port : List Input → List Input := id

/-- The state after the change. -/
def State.change (c : HostChange) (s : State) : State :=
  { s with ie := c.ie s.ie, err := c.err s.err, ckKind := c.ckKind s.ckKind, ckCnt := c.ckCnt s.ckCnt,
           ckAcc := c.ckAcc s.ckAcc, ckP1 := c.ckP1 s.ckP1, ckP2 := c.ckP2 s.ckP2, ckB1 := c.ckB1 s.ckB1,
           ckB2 := c.ckB2 s.ckB2, response := c.response s.response, port := c.port s.port }

theorem pushSimulation_change (c : HostChange) : PushSimulation fun s t => t = s.change c where
  fsm := by rintro s _ rfl; rfl
  rq := by rintro s _ rfl; rfl
  pos := by rintro s _ rfl; rfl
  slot := by rintro s _ rfl; rfl
  slots := by rintro s _ rfl; rfl
  bufmax := by rintro s _ rfl; rfl
  hdrResult := by rintro s _ b rfl; rfl
  responseComplete := by rintro s _ b rfl; rfl
  clearRq := by rintro s _ rfl; rfl
  seed := by rintro s _ rfl; rfl
  dropNoise := by rintro s _ rfl; rfl
  dropMismatch := by rintro s _ rfl; rfl
  dropOverflow := by rintro s _ rfl; rfl
  appended := by rintro s _ b rfl; rfl
  toAccum := by rintro s _ j rfl; rfl
  keepMatches := by rintro s _ u _ b rfl rfl; rfl
  complete := by
    rintro s _ j len rfl -
    rw [State.complete_eq_ite, State.complete_eq_ite, apply_ite (State.change c)]
    rfl

/-! ### IE and the port under every operation -/

/-- The outcome with its next state changed. -/
def mapNext (f : State → State) : Host.Outcome State Fault Refusal → Host.Outcome State Fault Refusal
  | .next s => .next (f s)
  | .fault e => .fault e
  | .refused r => .refused r

/-- The operations that read or write IE (10_state.md R38; 42_host_access.md R157). -/
def usesIe : Instr → Bool
  | .wrreg a _ | .rdreg a => a == 0x03
  | .sreset => true
  | .nop | .push _ _ | .cancel | .release | .ckinit _ | .ckfeed _ | .frread _ => false

/-- A change of IE and of the port. -/
def setupChange (ie : Word → Word) (port : List Input → List Input) : HostChange := { ie := ie, port := port }

/-- No register but IE reads IE or the port. -/
theorem readReg_setupChange {ie : Word → Word} {port : List Input → List Input} {r : Reg} (hr : r ≠ .ie ∨ ie = id)
    (s : State) : (s.change (setupChange ie port)).readReg r = s.readReg r := by
  obtain hr | rfl := hr
  · cases r with
    | ie => exact absurd rfl hr
    | param0 | param1 | status | fsmstat | fsmpos | outinfo | outlen | cfgerr | ckstat | ckres | ckcnt | cand | scfg _
      | explen _ | rhdr01 _ | rhdr23 _ | nhdr01 _ | nhdr23 _ => rfl
  · cases r <;> rfl

/-- A write to a register but IE leaves IE and the port as they are. -/
theorem writeReg_setupChange {ie : Word → Word} {port : List Input → List Input} {r : Reg} (hr : r ≠ .ie ∨ ie = id)
    (s : State) (d : Word) :
    (s.change (setupChange ie port)).writeReg d r = (s.writeReg d r).change (setupChange ie port) := by
  obtain hr | rfl := hr
  · cases r with
    | ie => exact absurd rfl hr
    | param0 | param1 | status | fsmstat | fsmpos | outinfo | outlen | cfgerr | ckstat | ckres | ckcnt | cand | scfg _
      | explen _ | rhdr01 _ | rhdr23 _ | nhdr01 _ | nhdr23 _ => rfl
  · cases r <;> rfl

/-- An address that is not IE's holds another register. -/
theorem ne_ie_of_regAt {n : Nat} {a : BitVec 8} {r : Reg} (hr : regAt n a = some r) (ha : (a == 0x03) = false) :
    r ≠ .ie := by
  rintro rfl
  have ha' : a = 0x03 := eq_of_regAt_eq_globalReg (k := 0x03) rfl hr
  rw [ha'] at ha
  cases ha

/-- FRREAD by its three tests (42_host_access.md R155); the last is the model's own, that the byte exists. -/
theorem exec_frread_eq_ite (x : Word) (s : State) :
    exec (.frread x) s =
      if s.outv = false then .next (s.raise .noFrame)
      else if s.outLen.toNat ≤ x.toNat then .next (s.raise .range)
      else if x.toNat < s.bufmax then .next (s.respond .ok ((s.obuf.read x.toNat).zeroExtend 16))
      else .fault (.obufIndex x.toNat) := by
  change execFrread x s = _
  rw [execFrread, State.readObuf]
  by_cases h : x.toNat < s.bufmax
  · rw [if_pos h, if_pos h]
  · rw [if_neg h, if_neg h]

theorem eq_mapNext_of_outcomeRel {f : State → State} {o o' : Host.Outcome State Fault Refusal}
    (h : outcomeRel (fun s t => t = f s) o o') : o' = mapNext f o := by
  cases o <;> cases o' <;> cases h <;> rfl

theorem exec_eq_mapNext {i : Instr} {f : State → State} {s t : State} (h : exec i s = .next t)
    (hf : exec i (f s) = .next (f t)) : exec i (f s) = mapNext f (exec i s) := by
  rw [h, hf]
  rfl

/-- Every operation that does not use IE carries along a change of IE and of the port, and every operation carries along
a change of the port. -/
theorem exec_setupChange {i : Instr} {ie : Word → Word} (hi : usesIe i = false ∨ ie = id)
    (port : List Input → List Input) (s : State) :
    exec i (s.change (setupChange ie port)) = mapNext (State.change (setupChange ie port)) (exec i s) := by
  cases i with
  | nop | cancel | ckinit k | ckfeed b => rfl
  | push sof b =>
    have hpush := (pushSimulation_change (setupChange ie port)).exec_push (s := s) rfl b sof
    refine eq_mapNext_of_outcomeRel (hpush.mono ?_)
    rintro _ _ ⟨u, _, rfl, rfl, rfl⟩
    rfl
  | wrreg a d =>
    cases hr : regAt s.nschema a with
    | none => exact exec_eq_mapNext (execWrreg_eq_next_iff.2 (.inl ⟨hr, rfl⟩)) (execWrreg_eq_next_iff.2 (.inl ⟨hr, rfl⟩))
    | some r =>
      cases hro : r.readOnly with
      | true =>
        have hrefused := exec_wrreg_of_readOnly (s := s.change (setupChange ie port)) hr hro d
        exact exec_eq_mapNext (exec_wrreg_of_readOnly hr hro d) hrefused
      | false =>
        have hwrite := exec_wrreg_of_writable (s := s.change (setupChange ie port)) hr hro d
        rw [writeReg_setupChange (hi.imp_left (ne_ie_of_regAt hr))] at hwrite
        exact exec_eq_mapNext (exec_wrreg_of_writable hr hro d) hwrite
  | rdreg a =>
    cases hr : regAt s.nschema a with
    | none => exact exec_eq_mapNext (execRdreg_eq_next_iff.2 (.inl ⟨hr, rfl⟩)) (execRdreg_eq_next_iff.2 (.inl ⟨hr, rfl⟩))
    | some r =>
      have hread := exec_rdreg_of_regAt (s := s.change (setupChange ie port)) hr
      rw [readReg_setupChange (hi.imp_left (ne_ie_of_regAt hr))] at hread
      exact exec_eq_mapNext (exec_rdreg_of_regAt hr) hread
  | release =>
    cases hv : s.outv with
    | false => exact exec_eq_mapNext (exec_release_of_free hv) (exec_release_of_free hv)
    | true => exact exec_eq_mapNext (exec_release_of_held hv) (exec_release_of_held hv)
  | frread x =>
    rw [exec_frread_eq_ite, exec_frread_eq_ite, apply_ite (mapNext _), apply_ite (mapNext _), apply_ite (mapNext _)]
    rfl
  | sreset =>
    obtain hi | rfl := hi
    · cases hi
    · rfl

theorem outcomeRel_mapNext {r : State → State → Prop} {f : State → State} (hr : ∀ t, r t (f t))
    (o : Host.Outcome State Fault Refusal) : outcomeRel r o (mapNext f o) := by
  cases o with
  | next t => exact hr t
  | fault e => rfl
  | refused x => rfl

/-- The operations that use IE and are not its read write it, and leave a state that no longer depends on it. -/
theorem exec_withIe_of_writer {i : Instr} (hi : usesIe i = true) (hread : i ≠ .rdreg 0x03) (s : State) (v : Word) :
    exec i { s with ie := v } = exec i s := by
  cases i with
  | wrreg a d =>
    obtain rfl : a = 0x03 := by simpa [usesIe] using hi
    have hreg := fun n => regAt_of_globalReg (k := 0x03) (r := .ie) rfl n
    exact (exec_wrreg_of_writable (hreg _) rfl d).trans (exec_wrreg_of_writable (hreg _) rfl d).symm
  | rdreg a =>
    obtain rfl : a = 0x03 := by simpa [usesIe] using hi
    exact absurd rfl hread
  | sreset => rfl
  | nop | push _ _ | cancel | release | ckinit _ | ckfeed _ | frread _ => cases hi

/-! ### Running the port -/

/-- An outcome, and from its next state on what follows. -/
def andThen (o : Host.Outcome State Fault Refusal) (k : State → Host.Outcome State Fault Refusal) :
    Host.Outcome State Fault Refusal :=
  match o with
  | .next s => k s
  | .fault e => .fault e
  | .refused r => .refused r

theorem andThen_mapNext (f : State → State) (o : Host.Outcome State Fault Refusal)
    (k : State → Host.Outcome State Fault Refusal) : andThen (mapNext f o) k = andThen o fun s => k (f s) := by
  cases o <;> rfl

theorem execAll_cons (i : Instr) (is : List Instr) (s : State) :
    execAll (i :: is) s = andThen (exec i s) (execAll is) := rfl

/-- `k` steps of the machine, its state and reasons written as the model's own types. -/
def runPort (k : Nat) (s : State) : Host.Outcome State Fault Refusal := Host.Core.run Sys2Proof.core k s

theorem runPort_succ (k : Nat) (s : State) : runPort (k + 1) s = andThen (step s) (runPort k) := by
  change Host.Core.run Sys2Proof.core (k + 1) s = andThen (Sys2Proof.core.step s) (runPort k)
  cases h : Sys2Proof.core.step s <;> simp only [Host.Core.run, h] <;> rfl

/-- Every step takes one word from the port and performs it on the state without the port. -/
theorem step_encode (i : Instr) (port : List Input) (s : State) :
    step { s with port := .op (encode i) :: port } = mapNext (fun t => { t with port := port }) (exec i s) := by
  rw [step_of_port_op rfl, performWord_of_ok (decode_encode i)]
  exact exec_setupChange (ie := id) (.inr rfl) (fun _ => port) s

/-! ### The byte stream beside the host's reads -/

/-- The change that leaves the stream's part of the state only. -/
def streamChange : HostChange where
  ie _ := 0
  err _ := false
  ckKind _ := .crc
  ckCnt _ := 0
  ckAcc _ := 0
  ckP1 _ := 0
  ckP2 _ := 0
  ckB1 _ := 0
  ckB2 _ := 0
  response _ := none

/-- PUSH on two states with the same stream part. -/
theorem exec_push_stream {s s' t : State} {sof : Bool} {b : Byte} (hstream : s.stream = s'.stream)
    (h : exec (.push sof b) s = .next t) : ∃ t', exec (.push sof b) s' = .next t' ∧ t.stream = t'.stream := by
  have hpush := (pushSimulation_change streamChange).pushByte (t := s.stream) rfl b sof
  have hpush' := (pushSimulation_change streamChange).pushByte (t := s'.stream) rfl b sof
  obtain ⟨u, hu, rfl⟩ := execPush_eq_next_iff.1 h
  rw [hu, hstream] at hpush
  cases hu' : s'.pushByte sof b <;> cases hv : s'.stream.pushByte sof b <;> rw [hv] at hpush <;>
    rw [hu', hv] at hpush'
  · cases hpush
  · cases hpush'
  · cases hpush
  · exact ⟨_, exec_push_of_ok hu', (hpush.symm.trans hpush' :)⟩

/-- An observer leaves the stream's part of the state alone. -/
theorem exec_observer_stream {i : Instr} {s t : State} (hi : isObserver i = true) (h : exec i s = .next t) :
    t.stream = s.stream := by
  cases i with
  | nop | ckinit k | ckfeed b => cases h; rfl
  | rdreg a => obtain ⟨-, rfl⟩ | ⟨r, -, rfl⟩ := execRdreg_eq_next_iff.1 h <;> rfl
  | frread x => obtain ⟨-, rfl⟩ | ⟨-, -, rfl⟩ | ⟨-, -, -, rfl⟩ := execFrread_eq_next_iff.1 h <;> rfl
  | push _ _ | wrreg _ _ | cancel | release | sreset => cases hi

/-- What every operation of a stream and its observers needs to complete, and keeps. -/
def State.StreamReady (s : State) : Prop := 4 ≤ s.bufmax ∧ (s.outv = true → s.outLen.toNat ≤ s.bufmax)

theorem keptByPush_streamReady : KeptByPush State.StreamReady where
  clearRq _ h := h
  seed _ h := h
  dropNoise _ h := h
  dropMismatch _ h := h
  dropOverflow _ h := h
  appended _ _ _ h := h
  toAccum _ _ _ h := h
  keepCandidates _ _ _ _ _ h := h
  complete s j hwf h := by
    rw [State.complete_eq_ite, BitVec.ofNat_toNat, BitVec.setWidth_eq]
    split
    · exact h
    · exact ⟨h.1, fun _ => (State.explen_of_wellFormed hwf).2⟩

theorem State.streamReady_of_stream {s t : State} (h : s.stream = t.stream) (hs : s.StreamReady) : t.StreamReady := by
  have hbufmax : s.bufmax = t.bufmax := (congrArg State.bufmax h :)
  have hv : s.outv = t.outv := (congrArg State.outv h :)
  have hlen : s.outLen = t.outLen := (congrArg State.outLen h :)
  rw [State.StreamReady, ← hbufmax, ← hv, ← hlen]
  exact hs

/-- The interleaved run and the stream alone, from states with the same stream part. -/
theorem execAll_interleaving {ps hs zs : List Instr} (hz : Interleaving ps hs zs) :
    (∀ i ∈ ps, isPush i = true) → (∀ i ∈ hs, isObserver i = true) → ∀ {s s' : State}, s.StreamReady →
      s.stream = s'.stream → ∃ t u, execAll zs s = .next t ∧ execAll ps s' = .next u ∧ t.stream = u.stream := by
  induction hz with
  | nil => exact fun _ _ s s' _ hstream => ⟨s, s', rfl, rfl, hstream⟩
  | @left x xs ys zs _ ih =>
    intro hpush hobs s s' hready hstream
    cases x with
    | push sof b =>
      obtain ⟨t, ht⟩ := exec_completes hready.1 hready.2 (.push sof b)
      obtain ⟨t', ht', htt'⟩ := exec_push_stream hstream ht
      obtain ⟨u, hu, rfl⟩ := execPush_eq_next_iff.1 ht
      rw [execAll_cons_of_next ht, execAll_cons_of_next ht']
      exact ih (fun i hi => hpush i (List.mem_cons_of_mem _ hi)) hobs
        (keptByPush_streamReady.pushByte hready hu :) htt'
    | nop | wrreg _ _ | rdreg _ | cancel | release | ckinit _ | ckfeed _ | frread _ | sreset =>
      cases hpush _ (List.mem_cons_self ..)
  | @right y xs ys zs _ ih =>
    intro hpush hobs s s' hready hstream
    obtain ⟨t, ht⟩ := exec_completes hready.1 hready.2 y
    have hts := exec_observer_stream (hobs y (List.mem_cons_self ..)) ht
    rw [execAll_cons_of_next ht]
    exact ih hpush (fun i hi => hobs i (List.mem_cons_of_mem _ hi)) (State.streamReady_of_stream hts.symm hready)
      (hts.trans hstream)

/-! ### Right after reset -/

/-- Every slot is the reset slot, which is not well-formed, so none is eligible (10_state.md R33, R47). -/
theorem State.resetOf_not_eligible (n b j : Nat) : (State.resetOf n b).eligible j = false := by
  have hslot : (State.resetOf n b).slotAt j = Slot.reset := by
    rw [State.slotAt, List.getD_eq_getElem?_getD]
    change ((List.replicate n Slot.reset)[j]?).getD Slot.reset = Slot.reset
    rw [List.getElem?_replicate]
    split <;> rfl
  rw [State.eligible, Slot.eligible, hslot]
  rfl

/-- With no eligible slot, no header matches. -/
theorem State.hdrResult_of_none_eligible {s : State} (h : ∀ j, s.eligible j = false) (b : Byte) :
    s.hdrResult b = .mismatch :=
  State.hdrResult_eq_mismatch.2 fun j =>
    ⟨fun ⟨_, he, _⟩ => Bool.noConfusion ((h j).symm.trans he), fun ⟨_, he, _⟩ => Bool.noConfusion ((h j).symm.trans he)⟩

/-! ### The statements -/

/-- Settles O59: an operation that uses IE and is not its read overwrites it; every other one carries it along. -/
theorem ieOnlyAffectsIrq : Obligations.IeOnlyAffectsIrq := by
  intro i s v hread
  cases hi : usesIe i with
  | true =>
    rw [exec_withIe_of_writer hi hread s v]
    cases exec i s <;> rfl
  | false =>
    have hchange : exec i { s with ie := v } = mapNext (fun t => { t with ie := v }) (exec i s) :=
      exec_setupChange (ie := fun _ => v) (.inl hi) id s
    rw [hchange]
    exact outcomeRel_mapNext (f := fun t => { t with ie := v }) (fun t => by rfl) _

/-- Settles O6: the word is decoded and performed with the rest of the port waiting. -/
theorem stepRunsDecodedOperation : Obligations.StepRunsDecodedOperation :=
  ⟨fun _ _ _ _ hport hdecode => (step_of_port_op hport).trans (performWord_of_ok hdecode _), fun _ => step_of_port_nil⟩

/-- Settles O7: by induction over the operations; the port is carried along by each. -/
theorem portRunsInOrder : Obligations.PortRunsInOrder := by
  intro is rest s
  change runPort is.length _ = _
  induction is generalizing s with
  | nil => rfl
  | cons i is ih =>
    have hstep := step_encode i (is.map (fun i => Input.op (encode i)) ++ rest) s
    have hexec : exec i { s with port := rest } = mapNext (fun t => { t with port := rest }) (exec i s) :=
      exec_setupChange (ie := id) (.inr rfl) (fun _ => rest) s
    rw [List.length_cons, runPort_succ, List.map_cons, List.cons_append, hstep, execAll_cons, hexec, andThen_mapNext,
      andThen_mapNext]
    exact congrArg _ (funext ih)

/-- Settles O57: PUSH carries along what observers write, and observers leave the stream's part alone. -/
theorem observersDoNotDisturbTheStream : Obligations.ObserversDoNotDisturbTheStream := by
  intro ps hs zs s hpush hobs hz hlegal hout
  obtain ⟨-, -, hbufmax, -⟩ := hlegal
  exact execAll_interleaving hz hpush hobs ⟨Nat.le_trans (by decide) hbufmax, hout⟩ rfl

/-- Settles O10: the reset input is the reset event, and the word of SRESET decodes to it. -/
theorem resetInputIsTheResetEvent : Obligations.ResetInputIsTheResetEvent := by
  intro s rest hport
  have hsreset : decode 0x90000000 = .ok .sreset := decode_encode .sreset
  exact ⟨step_of_port_reset hport, (step_of_port_op rfl).trans (performWord_of_ok hsreset _)⟩

/-- Settles O11: no slot is eligible, no frame is held, and the checksum unit has been fed nothing. -/
theorem behaviourAfterReset : Obligations.BehaviourAfterReset := by
  intro n b s
  have hmismatch : ∀ x, s.clearRq.start x = .ok s.clearRq.dropMismatch := fun x =>
    State.start_eq_ok_iff.2 (.inr (.inl
      ⟨State.hdrResult_of_none_eligible (s := s.clearRq.seed) (State.resetOf_not_eligible n b) x, rfl⟩))
  have hckstat : s.readReg .ckstat = 0x0001 := BitVec.eq_of_toNat_eq (by rw [readReg_ckstat_toNat]; rfl)
  refine ⟨fun x => ?_, fun x => exec_push_of_ok (State.pushByte_of_idle_drop rfl rfl rfl x), exec_frread_of_free rfl,
    exec_release_of_free rfl, rfl, exec_rdreg_global (k := 0x0A) rfl s, ?_⟩
  · exact exec_push_of_ok ((State.pushByte_of_idle_start rfl (.inl rfl) x).trans (hmismatch x))
  · have hread := exec_rdreg_global (k := 0x09) rfl s
    rw [hckstat] at hread
    exact hread

end Sys2Proof.Machine
end

section
/-! PROOFS. The buffer bytes that no operation observes (10_state.md R41): two states that differ in such bytes only, under
every operation. -/

namespace Sys2Proof.Machine

/-! ### Two states that differ in unobservable bytes -/

/-- The state with other buffers. -/
def State.withBuffers (r o : Memory) (s : State) : State := { s with rbuf := r, obuf := o }

/-- What must agree for the other buffers to be unobservable, by the two registers that bound what is observed. -/
structure State.AgreesBelow (s : State) (r o : Memory) : Prop where
  wf : s.rbuf.wf ∧ s.obuf.wf ∧ r.wf ∧ o.wf
  rbuf : ∀ i < s.pos.toNat, s.rbuf.read i = r.read i
  obuf : s.outv = true → ∀ i < s.outLen.toNat, s.obuf.read i = o.read i

theorem State.sameButUnobservable_iff {s t : State} :
    s.SameButUnobservable t ↔ ∃ r o, t = s.withBuffers r o ∧ s.AgreesBelow r o := by
  constructor
  · rintro ⟨heq, hwf, hrbuf, hobuf⟩
    exact ⟨t.rbuf, t.obuf, heq, hwf, hrbuf, hobuf⟩
  · rintro ⟨r, o, rfl, hwf, hrbuf, hobuf⟩
    exact ⟨rfl, hwf, hrbuf, hobuf⟩

/-- Two states that differ in such bytes still do after the same update of the other fields, if it lets no more of the
buffers be observed. -/
theorem State.AgreesBelow.sameBut {s u : State} {r o : Memory} (h : s.AgreesBelow r o) (hrbuf : u.rbuf = s.rbuf)
    (hobuf : u.obuf = s.obuf) (hpos : u.pos = s.pos ∨ u.pos = 0) (hout : u.outv = true → s.outv = true ∧ u.outLen = s.outLen) :
    u.SameButUnobservable (u.withBuffers r o) := by
  refine State.sameButUnobservable_iff.2 ⟨r, o, rfl, by rw [hrbuf, hobuf]; exact h.wf, fun i hi => ?_, fun hv i hi => ?_⟩
  · obtain hpos | hpos := hpos
    · rw [hrbuf]
      exact h.rbuf i (hpos ▸ hi)
    · rw [hpos] at hi
      exact absurd hi (Nat.not_lt_zero i)
  · obtain ⟨hheld, hlen⟩ := hout hv
    rw [hobuf]
    exact h.obuf hheld i (hlen ▸ hi)

/-! ### PUSH -/

theorem State.AgreesBelow.appended {s : State} {r o : Memory} (h : s.AgreesBelow r o) (b : Byte) :
    (s.appended b).AgreesBelow (r.write s.pos.toNat b) o := by
  obtain ⟨⟨hrwf, howf, hrwf', howf'⟩, hrbuf, hobuf⟩ := h
  refine ⟨⟨Memory.write_wf hrwf _ _, howf, Memory.write_wf hrwf' _ _, howf'⟩, fun i hi => ?_, hobuf⟩
  change (s.rbuf.write s.pos.toNat b).read i = _
  have hi' : i < s.pos.toNat + 1 := Nat.lt_of_lt_of_le hi (by
    change (s.pos + 1).toNat ≤ _
    rw [BitVec.toNat_add]
    exact Nat.mod_le _ _)
  rw [Memory.read_write hrwf, Memory.read_write hrwf']
  split
  · rfl
  · exact hrbuf i (by omega)

/-- A completed frame is copied and validated from bytes that agree (41_reassembler.md R127). -/
theorem State.AgreesBelow.complete {s : State} {r o : Memory} (h : s.AgreesBelow r o) (j : Nat) {len : Nat}
    (hlen : s.pos.toNat = len) : (s.complete j len).SameButUnobservable ((s.withBuffers r o).complete j len) := by
  obtain ⟨⟨hrwf, howf, hrwf', howf'⟩, hrbuf, hobuf⟩ := id h
  cases hout : s.outv with
  | true =>
    rw [State.complete_of_held hout, State.complete_of_held (s := s.withBuffers r o) hout]
    exact h.sameBut (u := { s with ovr := true, fsm := .idle, pos := 0, slot := 0, candr := 0, candn := 0, rq := true })
      rfl rfl (.inr rfl) fun _ => ⟨hout, rfl⟩
  | false =>
    have hbytes : r.bytes len = s.rbuf.bytes len :=
      Memory.bytes_congr fun i hi => (hrbuf i (by omega)).symm
    rw [State.complete_of_free hout, State.complete_of_free (s := s.withBuffers r o) hout]
    refine State.sameButUnobservable_iff.2 ⟨r, r.copy o len, ?_, ?_, ?_, ?_⟩
    · rw [State.withBuffers, State.withBuffers, hbytes]
      rfl
    · exact ⟨hrwf, Memory.copy_wf _ howf _, hrwf', Memory.copy_wf _ howf' _⟩
    · exact fun i hi => absurd hi (Nat.not_lt_zero i)
    · intro _ i hi
      change (s.rbuf.copy s.obuf len).read i = (r.copy o len).read i
      have hi' : i < len := Nat.lt_of_lt_of_le hi (by
        change (BitVec.ofNat 16 len).toNat ≤ len
        rw [BitVec.toNat_ofNat]
        exact Nat.mod_le _ _)
      rw [Memory.read_copy _ howf, Memory.read_copy _ howf', if_pos hi', if_pos hi', hrbuf i (by omega)]

theorem pushSimulation_sameBut : PushSimulation State.SameButUnobservable where
  fsm h := by obtain ⟨r, o, rfl, -⟩ := State.sameButUnobservable_iff.1 h; rfl
  rq h := by obtain ⟨r, o, rfl, -⟩ := State.sameButUnobservable_iff.1 h; rfl
  pos h := by obtain ⟨r, o, rfl, -⟩ := State.sameButUnobservable_iff.1 h; rfl
  slot h := by obtain ⟨r, o, rfl, -⟩ := State.sameButUnobservable_iff.1 h; rfl
  slots h := by obtain ⟨r, o, rfl, -⟩ := State.sameButUnobservable_iff.1 h; rfl
  bufmax h := by obtain ⟨r, o, rfl, -⟩ := State.sameButUnobservable_iff.1 h; rfl
  hdrResult b h := by obtain ⟨r, o, rfl, -⟩ := State.sameButUnobservable_iff.1 h; rfl
  responseComplete b h := by obtain ⟨r, o, rfl, -⟩ := State.sameButUnobservable_iff.1 h; rfl
  clearRq {s t} h := by
    obtain ⟨r, o, rfl, hagree⟩ := State.sameButUnobservable_iff.1 h
    exact hagree.sameBut (u := s.clearRq) rfl rfl (.inl rfl) fun hv => ⟨hv, rfl⟩
  seed {s t} h := by
    obtain ⟨r, o, rfl, hagree⟩ := State.sameButUnobservable_iff.1 h
    exact hagree.sameBut (u := s.seed) rfl rfl (.inr rfl) fun hv => ⟨hv, rfl⟩
  dropNoise {s t} h := by
    obtain ⟨r, o, rfl, hagree⟩ := State.sameButUnobservable_iff.1 h
    exact hagree.sameBut (u := s.dropNoise) rfl rfl (.inr rfl) fun hv => ⟨hv, rfl⟩
  dropMismatch {s t} h := by
    obtain ⟨r, o, rfl, hagree⟩ := State.sameButUnobservable_iff.1 h
    exact hagree.sameBut (u := s.dropMismatch) rfl rfl (.inr rfl) fun hv => ⟨hv, rfl⟩
  dropOverflow {s t} h := by
    obtain ⟨r, o, rfl, hagree⟩ := State.sameButUnobservable_iff.1 h
    exact hagree.sameBut (u := s.dropOverflow) rfl rfl (.inr rfl) fun hv => ⟨hv, rfl⟩
  appended {s t} b h := by
    obtain ⟨r, o, rfl, hagree⟩ := State.sameButUnobservable_iff.1 h
    exact State.sameButUnobservable_iff.2 ⟨_, _, rfl, hagree.appended b⟩
  toAccum {s t} j h := by
    obtain ⟨r, o, rfl, hagree⟩ := State.sameButUnobservable_iff.1 h
    exact hagree.sameBut (u := s.toAccum j) rfl rfl (.inl rfl) fun hv => ⟨hv, rfl⟩
  keepMatches {s t u v} b h h' := by
    obtain ⟨-, -, rfl, -⟩ := State.sameButUnobservable_iff.1 h
    obtain ⟨r, o, rfl, hagree⟩ := State.sameButUnobservable_iff.1 h'
    exact hagree.sameBut (u := u.keepCandidates (s.noiseMatches b) (s.responseMatches b)) rfl rfl (.inl rfl)
      fun hv => ⟨hv, rfl⟩
  complete {s t} j len h hlen := by
    obtain ⟨r, o, rfl, hagree⟩ := State.sameButUnobservable_iff.1 h
    exact hagree.complete j hlen

/-! ### Every operation -/

theorem readReg_withBuffers (r o : Memory) (s : State) (x : Reg) : (s.withBuffers r o).readReg x = s.readReg x := by
  cases x <;> rfl

theorem writeReg_withBuffers (r o : Memory) (s : State) (d : Word) (x : Reg) :
    (s.withBuffers r o).writeReg d x = (s.writeReg d x).withBuffers r o := by
  cases x <;> rfl

/-- Raising a code does not touch the buffers. -/
theorem State.AgreesBelow.raise {s : State} {r o : Memory} (h : s.AgreesBelow r o) (c : Code) :
    (s.raise c).SameButUnobservable ((s.withBuffers r o).raise c) :=
  h.sameBut (u := s.raise c) rfl rfl (.inl rfl) fun hv => ⟨hv, rfl⟩

/-- Nor does a response. -/
theorem State.AgreesBelow.respond {s : State} {r o : Memory} (h : s.AgreesBelow r o) (c : Code) (d : Word) :
    (s.respond c d).SameButUnobservable ((s.withBuffers r o).respond c d) :=
  h.sameBut (u := s.respond c d) rfl rfl (.inl rfl) fun hv => ⟨hv, rfl⟩

theorem State.SameButUnobservable.respond {s t : State} (h : s.SameButUnobservable t) (c : Code) (d : Word) :
    (s.respond c d).SameButUnobservable (t.respond c d) := by
  obtain ⟨r, o, rfl, hagree⟩ := State.sameButUnobservable_iff.1 h
  exact hagree.respond c d

/-- Two operations that complete in related states are related. -/
theorem outcomeRel_of_next {R : State → State → Prop} {i : Instr} {s t u v : State} (hs : exec i s = .next u)
    (ht : exec i t = .next v) (h : R u v) : outcomeRel R (exec i s) (exec i t) := by
  rw [hs, ht]
  exact h

/-- FRREAD reads a byte below OUT_LEN of a held frame only (42_host_access.md R155). -/
theorem State.AgreesBelow.exec_frread {s : State} {r o : Memory} (h : s.AgreesBelow r o) (x : Word) :
    outcomeRel State.SameButUnobservable (exec (.frread x) s) (exec (.frread x) (s.withBuffers r o)) := by
  cases hv : s.outv with
  | false =>
    exact outcomeRel_of_next (exec_frread_of_free hv x) (exec_frread_of_free (s := s.withBuffers r o) hv x) (h.raise _)
  | true =>
    by_cases hpast : s.outLen.toNat ≤ x.toNat
    · exact outcomeRel_of_next (exec_frread_of_past_end hv hpast)
        (exec_frread_of_past_end (s := s.withBuffers r o) hv hpast) (h.raise _)
    · have hbyte : s.obuf.read x.toNat = (s.withBuffers r o).obuf.read x.toNat := h.obuf hv x.toNat (by omega)
      have hfree : ¬ s.outv = false := by simp [hv]
      rw [exec_frread_eq_ite, exec_frread_eq_ite, if_neg hfree, if_neg hpast, if_neg (show ¬ (s.withBuffers r o).outv = false
        from hfree), if_neg (show ¬ (s.withBuffers r o).outLen.toNat ≤ x.toNat from hpast), ← hbyte]
      by_cases hroom : x.toNat < s.bufmax
      · rw [if_pos hroom, if_pos (show x.toNat < (s.withBuffers r o).bufmax from hroom)]
        exact h.respond _ _
      · rw [if_neg hroom, if_neg (show ¬ x.toNat < (s.withBuffers r o).bufmax from hroom)]
        rfl

theorem exec_sameBut (i : Instr) {s t : State} (h : s.SameButUnobservable t) :
    outcomeRel State.SameButUnobservable (exec i s) (exec i t) := by
  obtain ⟨r, o, rfl, hagree⟩ := State.sameButUnobservable_iff.1 h
  cases i with
  | nop => exact hagree.respond _ _
  | push sof b =>
    refine (pushSimulation_sameBut.exec_push h b sof).mono ?_
    rintro _ _ ⟨u, v, huv, rfl, rfl⟩
    exact huv.respond _ _
  | wrreg a d =>
    cases hr : regAt s.nschema a with
    | none =>
      exact outcomeRel_of_next (execWrreg_eq_next_iff.2 (.inl ⟨hr, rfl⟩))
        (execWrreg_eq_next_iff.2 (.inl ⟨hr, rfl⟩) : exec (.wrreg a d) (s.withBuffers r o) = _) (hagree.raise _)
    | some x =>
      cases hro : x.readOnly with
      | true =>
        exact outcomeRel_of_next (exec_wrreg_of_readOnly hr hro d)
          (exec_wrreg_of_readOnly (s := s.withBuffers r o) hr hro d) (hagree.raise _)
      | false =>
        have hwrite := exec_wrreg_of_writable (s := s.withBuffers r o) hr hro d
        rw [writeReg_withBuffers] at hwrite
        exact outcomeRel_of_next (exec_wrreg_of_writable hr hro d) hwrite
          (hagree.sameBut (u := (s.writeReg d x).respond .ok 0x0000) (by cases x <;> rfl) (by cases x <;> rfl)
            (.inl (by cases x <;> rfl)) (by cases x <;> exact fun hv => ⟨hv, rfl⟩))
  | rdreg a =>
    cases hr : regAt s.nschema a with
    | none =>
      exact outcomeRel_of_next (execRdreg_eq_next_iff.2 (.inl ⟨hr, rfl⟩))
        (execRdreg_eq_next_iff.2 (.inl ⟨hr, rfl⟩) : exec (.rdreg a) (s.withBuffers r o) = _) (hagree.raise _)
    | some x =>
      have hread := exec_rdreg_of_regAt (s := s.withBuffers r o) hr
      rw [readReg_withBuffers] at hread
      exact outcomeRel_of_next (exec_rdreg_of_regAt hr) hread (hagree.respond _ _)
  | cancel => exact hagree.sameBut (u := s.goIdle.clearRq.respond .ok 0x0000) rfl rfl (.inr rfl) fun hv => ⟨hv, rfl⟩
  | release =>
    cases hv : s.outv with
    | false =>
      exact outcomeRel_of_next (exec_release_of_free hv) (exec_release_of_free (s := s.withBuffers r o) hv) (hagree.raise _)
    | true =>
      exact outcomeRel_of_next (exec_release_of_held hv) (exec_release_of_held (s := s.withBuffers r o) hv)
        (hagree.sameBut
          (u := State.respond { s with outv := false, outLen := 0, outSchema := 0, outCkok := false } .ok 0x0000)
          rfl rfl (.inl rfl) fun hheld => by cases hheld)
  | ckinit k | ckfeed b => exact ⟨rfl, hagree.wf, hagree.rbuf, hagree.obuf⟩
  | frread x => exact hagree.exec_frread x
  | sreset =>
    exact State.sameButUnobservable_iff.2 ⟨[], [], rfl, ⟨Memory.wf_nil, Memory.wf_nil, Memory.wf_nil, Memory.wf_nil⟩,
      fun _ _ => rfl, fun _ _ _ => rfl⟩

/-! ### The statement -/

/-- Settles O56: the two states hold the same port; the reset event empties both buffers, and every word is performed
alike. -/
theorem unspecifiedBytesAreUnobservable : Obligations.UnspecifiedBytesAreUnobservable := by
  intro s t h
  obtain ⟨r, o, rfl, hagree⟩ := State.sameButUnobservable_iff.1 h
  cases hp : s.port with
  | nil =>
    rw [step_of_port_nil hp, step_of_port_nil (s := s.withBuffers r o) hp]
    exact h
  | cons x rest =>
    have hport : State.SameButUnobservable { s with port := rest } { s.withBuffers r o with port := rest } :=
      hagree.sameBut (u := { s with port := rest }) rfl rfl (.inl rfl) fun hv => ⟨hv, rfl⟩
    cases x with
    | reset =>
      rw [step_of_port_reset hp, step_of_port_reset (s := s.withBuffers r o) hp]
      exact State.sameButUnobservable_iff.2 ⟨[], [], rfl, ⟨Memory.wf_nil, Memory.wf_nil, Memory.wf_nil, Memory.wf_nil⟩,
        fun _ _ => rfl, fun _ _ _ => rfl⟩
    | op w =>
      rw [step_of_port_op hp, step_of_port_op (s := s.withBuffers r o) hp]
      cases hw : decode w with
      | ok i =>
        rw [performWord_of_ok hw, performWord_of_ok hw]
        exact exec_sameBut i hport
      | error e =>
        rw [performWord_of_error hw, performWord_of_error hw]
        obtain ⟨r', o', heq, hagree'⟩ := State.sameButUnobservable_iff.1 hport
        rw [heq]
        exact hagree'.raise _

end Sys2Proof.Machine
end

section
/-! PROOFS. The register space and the host's sequences: the registers as numbers, RDREG at every address, a slot's
registers as its fields, reads repeated, the ARM and READFRAME sequences. -/

namespace Sys2Proof.Machine

/-! ### STATUS and the fields of a slot as numbers -/

theorem bit_eq_toNat (b : Bool) : bit b = b.toNat := by cases b <;> rfl

theorem readReg_status_toNat (s : State) :
    (s.readReg .status).toNat = bit s.outv + 2 * bit (s.outv && s.outCkok) + 4 * bit (s.fsm != .idle) +
      2 ^ 8 * bit s.noise + 2 ^ 9 * bit s.mism + 2 ^ 10 * bit s.ovf + 2 ^ 11 * bit s.ovr + 2 ^ 12 * bit s.err := by
  simp only [bit_eq_toNat]
  exact statusWord_toNat s

theorem readReg_cand_toNat (s : State) : (s.readReg .cand).toNat = s.candr.toNat + 2 ^ 8 * s.candn.toNat := by
  rw [State.readReg, toNat_append_eq_add, Nat.add_comm]

theorem getLsbD_eq_true_iff {n : Nat} (w : BitVec n) (k : Nat) : w.getLsbD k = true ↔ w.toNat / 2 ^ k % 2 = 1 := by
  rw [BitVec.getLsbD, Nat.testBit_eq_decide_div_mod_eq, decide_eq_true_eq]

theorem Slot.en_iff (x : Slot) : x.en = true ↔ x.scfg.toNat % 2 = 1 := by
  rw [Slot.en, getLsbD_eq_true_iff, Nat.pow_zero, Nat.div_one]

theorem Kind.ofBit_eq_crc_iff (b : Bool) : Kind.ofBit b = .crc ↔ b = true := by cases b <;> simp [Kind.ofBit]

theorem Slot.kind_iff (x : Slot) : x.kind = .crc ↔ x.scfg.toNat / 2 % 2 = 1 := by
  rw [Slot.kind, Kind.ofBit_eq_crc_iff, getLsbD_eq_true_iff, Nat.pow_one]

theorem Slot.rhlen_eq (x : Slot) : x.rhlen = x.scfg.toNat / 2 ^ 2 % 2 ^ 3 := by
  rw [Slot.rhlen, BitVec.extractLsb'_toNat, Nat.shiftRight_eq_div_pow]

theorem Slot.nhlen_eq (x : Slot) : x.nhlen = x.scfg.toNat / 2 ^ 5 % 2 ^ 3 := by
  rw [Slot.nhlen, BitVec.extractLsb'_toNat, Nat.shiftRight_eq_div_pow]

/-- The four header bytes of a pair of registers, the low register's low byte first (10_state.md R32). -/
theorem headerBytes_toNat (hi lo : Word) :
    ((hi ++ lo).extractLsb' (8 * 0) 8).toNat = lo.toNat % 2 ^ 8 ∧
      ((hi ++ lo).extractLsb' (8 * 1) 8).toNat = lo.toNat / 2 ^ 8 ∧
      ((hi ++ lo).extractLsb' (8 * 2) 8).toNat = hi.toNat % 2 ^ 8 ∧
      ((hi ++ lo).extractLsb' (8 * 3) 8).toNat = hi.toNat / 2 ^ 8 := by
  have hhi := hi.isLt
  have hlo := lo.isLt
  simp only [BitVec.extractLsb'_toNat, Nat.shiftRight_eq_div_pow, toNat_append_eq_add]
  omega

/-! ### RDREG at every address -/

theorem exec_rdreg_of_unmapped {s : State} {a : BitVec 8} (h : Unmapped s.nschema a.toNat) :
    exec (.rdreg a) s = .next (s.raise .badAddr) :=
  execRdreg_eq_next_iff.2 (.inl ⟨regAt_eq_none_iff.2 h, rfl⟩)

/-- An existing slot is its entry of the slot file. -/
theorem State.slotAt_of_getElem? {s : State} {j : Nat} {x : Slot} (h : s.slots[j]? = some x) :
    j < s.nschema ∧ s.slotAt j = x := by
  obtain ⟨hj, -⟩ := List.getElem?_eq_some_iff.1 h
  exact ⟨hj, by rw [State.slotAt, List.getD_eq_getElem?_getD, h, Option.getD_some]⟩

/-- The register at an address is a global one, or one of the six of an existing slot (10_state.md R24). -/
theorem regAt_cases {n : Nat} {a : BitVec 8} {r : Reg} (h : regAt n a = some r) :
    globalReg a.toNat = some r ∨
      ∃ j k, j < n ∧ k < 6 ∧ a.toNat = 0x10 + 8 * j + k ∧ slotReg j k = some r := by
  unfold regAt at h
  split at h
  case isTrue => exact .inl h
  case isFalse hlow =>
    split at h
    case isTrue hj =>
      refine .inr ⟨_, _, hj, Nat.lt_of_not_le fun hk => ?_, by omega, h⟩
      rw [slotReg_eq_none_iff.2 hk] at h
      cases h
    case isFalse => cases h

/-! ### A slot's registers -/

/-- The register of a slot at offset `k`, as it reads (10_state.md R24, 42_host_access.md R152). -/
def Slot.reg (x : Slot) : Nat → Word
  | 0 => x.scfg &&& scfgMask
  | 1 => x.explen
  | 2 => x.rhdr01
  | 3 => x.rhdr23
  | 4 => x.nhdr01
  | _ => x.nhdr23

/-- The slot with its register at offset `k` written (42_host_access.md R153). -/
def Slot.withReg (x : Slot) (d : Word) : Nat → Slot
  | 0 => { x with scfg := d &&& scfgMask }
  | 1 => { x with explen := d }
  | 2 => { x with rhdr01 := d }
  | 3 => { x with rhdr23 := d }
  | 4 => { x with nhdr01 := d }
  | _ => { x with nhdr23 := d }

theorem exists_slotReg (j : Nat) {k : Nat} (hk : k < 6) : ∃ r, slotReg j k = some r :=
  Option.ne_none_iff_exists'.1 fun hnone => by rw [slotReg_eq_none_iff] at hnone; omega

theorem readReg_slotReg {j k : Nat} {r : Reg} (hk : k < 6) (h : slotReg j k = some r) (s : State) :
    s.readReg r = (s.slotAt j).reg k := by
  interval_cases k <;> cases h <;> rfl

theorem writeReg_slotReg {j k : Nat} {r : Reg} (hk : k < 6) (h : slotReg j k = some r) (s : State) (d : Word) :
    s.writeReg d r = s.setSlot j ((s.slotAt j).withReg d k) := by
  interval_cases k <;> cases h <;> rfl

theorem Slot.reg_withReg_same (x : Slot) (d : Word) {k : Nat} (hk : k < 6) :
    (x.withReg d k).reg k = if k = 0 then d &&& scfgMask else d := by
  interval_cases k
  · change d &&& scfgMask &&& scfgMask = _
    rw [BitVec.and_assoc, BitVec.and_self, if_pos rfl]
  · rfl
  · rfl
  · rfl
  · rfl
  · rfl

theorem Slot.reg_withReg_other (x : Slot) (d : Word) {k l : Nat} (hk : k < 6) (hl : l < 6) (hne : l ≠ k) :
    (x.withReg d k).reg l = x.reg l := by
  interval_cases k <;> interval_cases l <;> first | rfl | exact absurd rfl hne

theorem slotAddr_toNat {j k : Nat} (hj : j < 8) (hk : k < 6) : (slotAddr j k).toNat = 0x10 + 8 * j + k := by
  rw [slotAddr, BitVec.toNat_ofNat]
  omega

theorem exec_rdreg_slotAddr {s : State} {j k : Nat} (hlegal : s.Legal) (hj : j < s.nschema) (hk : k < 6) :
    exec (.rdreg (slotAddr j k)) s = .next (s.respond .ok ((s.slotAt j).reg k)) := by
  obtain ⟨-, hn, -, -⟩ := hlegal
  obtain ⟨r, hr⟩ := exists_slotReg j hk
  rw [← readReg_slotReg hk hr]
  exact exec_rdreg_of_regAt ((regAt_slot (slotAddr_toNat (by omega) hk) (by omega) hj).trans hr)

theorem exec_wrreg_slotAddr {s : State} {j k : Nat} (hlegal : s.Legal) (hj : j < s.nschema) (hk : k < 6) (d : Word) :
    exec (.wrreg (slotAddr j k) d) s =
      .next ((s.setSlot j ((s.slotAt j).withReg d k)).respond .ok 0x0000) := by
  obtain ⟨-, hn, -, -⟩ := hlegal
  obtain ⟨r, hr⟩ := exists_slotReg j hk
  rw [← writeReg_slotReg hk hr]
  exact exec_wrreg_of_writable ((regAt_slot (slotAddr_toNat (by omega) hk) (by omega) hj).trans hr)
    (readOnly_of_slotReg hr) d

theorem State.slotAt_setSlot_same {s : State} {j : Nat} (hj : j < s.nschema) (x : Slot) : (s.setSlot j x).slotAt j = x := by
  rw [State.slotAt_setSlot, if_pos ⟨rfl, hj⟩]

theorem State.setSlot_legal {s : State} (h : s.Legal) (j : Nat) (x : Slot) : (s.setSlot j x).Legal := by
  rw [State.Legal, State.setSlot_nschema]
  exact h

/-- Of the registers below 0x10, only CFGERR shows what a slot holds. -/
theorem readReg_global_setSlot {k : Nat} {r : Reg} (h : globalReg k = some r) (hcfgerr : k ≠ 0x08) (s : State) (j : Nat)
    (x : Slot) : (s.setSlot j x).readReg r = s.readReg r := by
  have hk : k < 0x0D := Nat.lt_of_not_le fun hk => by rw [globalReg_eq_none_iff.2 hk] at h; cases h
  by_cases h0 : k = 0
  · subst h0
    cases h
    rw [State.readReg, State.readReg, State.setSlot_nschema]
  · interval_cases k <;> cases h <;> first | rfl | exact absurd rfl hcfgerr | exact absurd rfl h0

/-- A register of a slot reads as before after a write to another one. -/
theorem slotReg_setSlot_other {s : State} {j k l m : Nat} (d : Word) (hk : k < 6) (hm : m < 6) (hne : l ≠ j ∨ m ≠ k) :
    ((s.setSlot j ((s.slotAt j).withReg d k)).slotAt l).reg m = (s.slotAt l).reg m := by
  rw [State.slotAt_setSlot]
  split
  case isTrue hsame =>
    obtain ⟨rfl, -⟩ := hsame
    exact Slot.reg_withReg_other _ d hk hm (hne.resolve_left (absurd rfl))
  case isFalse => rfl

/-! ### Reads repeated -/

theorem readReg_respond (s : State) (c : Code) (d : Word) (r : Reg) : (s.respond c d).readReg r = s.readReg r := by
  cases r <;> rfl

theorem State.eq_of_respond_response {s : State} {d d' : Word} (h : (s.respond .ok d).response = some ⟨.ok, d'⟩) :
    s.respond .ok d = { s with response := some ⟨.ok, d'⟩ } := by
  rw [State.respond_response] at h
  rw [← h]
  rfl

theorem State.raise_response_ne_ok {s : State} {c : Code} {d : Word} (hc : c ≠ .ok)
    (h : (s.raise c).response = some ⟨.ok, d⟩) : False := by
  rw [State.raise_response, Option.some.injEq, Response.mk.injEq] at h
  exact hc h.1

/-! ### The ARM sequence -/

theorem State.setSlot_setSlot (s : State) (j : Nat) (x y : Slot) : (s.setSlot j x).setSlot j y = s.setSlot j y := by
  rw [State.setSlot, State.setSlot, State.setSlot, List.set_set]

theorem State.respond_setSlot (s : State) (j : Nat) (x : Slot) (c : Code) (d : Word) :
    ((s.respond c d).setSlot j x).respond c d = (s.setSlot j x).respond c d := rfl

/-- The registers of one slot written in order, each write `(offset, data)`. -/
def writeSlot (j : Nat) (ws : List (Nat × Word)) : List Instr := ws.map fun w => .wrreg (slotAddr j w.1) w.2

/-- The slot after the writes. -/
def Slot.written (x : Slot) (ws : List (Nat × Word)) : Slot := ws.foldl (fun y w => y.withReg w.2 w.1) x

theorem execAll_writeSlot {j : Nat} {ws : List (Nat × Word)} (hws : ∀ w ∈ ws, w.1 < 6) {w : Nat × Word} (hw : w.1 < 6)
    {s : State} (hlegal : s.Legal) (hj : j < s.nschema) :
    execAll (writeSlot j (w :: ws)) s =
      .next ((s.setSlot j ((s.slotAt j).written (w :: ws))).respond .ok 0x0000) := by
  induction ws generalizing w s with
  | nil => exact execAll_cons_of_next (exec_wrreg_slotAddr hlegal hj hw w.2)
  | cons v ws ih =>
    have hfirst := exec_wrreg_slotAddr hlegal hj hw w.2
    have hlegal' := State.setSlot_legal hlegal j ((s.slotAt j).withReg w.2 w.1)
    have hrest := ih (fun u hu => hws u (List.mem_cons_of_mem _ hu)) (hws v List.mem_cons_self)
      (s := (s.setSlot j ((s.slotAt j).withReg w.2 w.1)).respond .ok 0x0000) hlegal' (by
        rw [State.nschema_congr (State.respond_slots _ _ _), State.setSlot_nschema]; exact hj)
    have hslot : ((s.setSlot j ((s.slotAt j).withReg w.2 w.1)).respond .ok 0x0000).slotAt j =
        (s.slotAt j).withReg w.2 w.1 := State.slotAt_setSlot_same hj _
    refine (execAll_cons_of_next hfirst).trans (hrest.trans ?_)
    rw [hslot, State.respond_setSlot, State.setSlot_setSlot]
    rfl

/-- SCFG as ARM writes it last: `{NHLEN, RHLEN, KIND, 1}` (30_encoding.md R90), its reserved bits 0. -/
def armedScfg (kind : Kind) (rhlen nhlen : BitVec 3) : Word :=
  (0#8 ++ nhlen ++ rhlen ++ BitVec.ofBool kind.bit ++ 1#1) &&& scfgMask

/-- The fields of a slot that ARM has armed. -/
theorem armedScfg_fields (kind : Kind) (rhlen nhlen : BitVec 3) :
    (armedScfg kind rhlen nhlen).getLsbD 0 = true ∧ (armedScfg kind rhlen nhlen).getLsbD 1 = kind.bit ∧
      (armedScfg kind rhlen nhlen).extractLsb' 2 3 = rhlen ∧ (armedScfg kind rhlen nhlen).extractLsb' 5 3 = nhlen := by
  unfold armedScfg
  generalize kind.bit = b
  revert b rhlen nhlen
  decide

/-- The slot that ARM leaves (30_encoding.md R90). -/
def armedSlot (kind : Kind) (rh01 rh23 nh01 nh23 explen : Word) (rhlen nhlen : BitVec 3) : Slot :=
  ⟨armedScfg kind rhlen nhlen, explen, rh01, rh23, nh01, nh23⟩

section
variable (kind : Kind) (rh01 rh23 nh01 nh23 explen : Word) (rhlen nhlen : BitVec 3)

theorem armedSlot_kind : (armedSlot kind rh01 rh23 nh01 nh23 explen rhlen nhlen).kind = kind := by
  obtain ⟨-, hkind, -, -⟩ := armedScfg_fields kind rhlen nhlen
  rw [Slot.kind, armedSlot, hkind, Kind.ofBit_bit]

theorem armedSlot_rhlen : (armedSlot kind rh01 rh23 nh01 nh23 explen rhlen nhlen).rhlen = rhlen.toNat := by
  obtain ⟨-, -, hrh, -⟩ := armedScfg_fields kind rhlen nhlen
  exact congrArg BitVec.toNat hrh

theorem armedSlot_nhlen : (armedSlot kind rh01 rh23 nh01 nh23 explen rhlen nhlen).nhlen = nhlen.toNat := by
  obtain ⟨-, -, -, hnh⟩ := armedScfg_fields kind rhlen nhlen
  exact congrArg BitVec.toNat hnh

/-- With legal values the slot is eligible (10_state.md R33). -/
theorem armedSlot_eligible {bufmax : Nat} (hrhlen : 1 ≤ rhlen.toNat) (hrhlen4 : rhlen.toNat ≤ 4)
    (hnhlen4 : nhlen.toNat ≤ 4) (hexplen : rhlen.toNat + ckLen kind ≤ explen.toNat) (hfits : explen.toNat ≤ bufmax) :
    (armedSlot kind rh01 rh23 nh01 nh23 explen rhlen nhlen).eligible bufmax = true := by
  obtain ⟨hen, -, -, -⟩ := armedScfg_fields kind rhlen nhlen
  rw [Slot.eligible_iff, armedSlot_kind, armedSlot_rhlen, armedSlot_nhlen]
  exact ⟨hen, hrhlen, hrhlen4, hnhlen4, hexplen, hfits⟩

end

/-! ### The READFRAME sequence -/

theorem responses_cons_of_next {i : Instr} {is : List Instr} {s t : State} (h : exec i s = .next t) :
    responses (i :: is) s = t.response :: responses is t := by
  simp [responses, h]

/-- Every byte of a held frame read in any order: the responses are the bytes, and only the last response changes. -/
theorem frreads_of_held {s : State} (hheld : s.outv = true) (hfits : s.outLen.toNat ≤ s.bufmax) (js : List Instr)
    {xs : List Nat} (hxs : ∀ x ∈ xs, x < s.outLen.toNat) :
    ∃ r, execAll (xs.map (fun i => .frread (BitVec.ofNat 16 i)) ++ js) s = execAll js { s with response := r } ∧
      responses (xs.map (fun i => .frread (BitVec.ofNat 16 i)) ++ js) s =
        xs.map (fun i => some ⟨.ok, (s.obuf.read i).zeroExtend 16⟩) ++ responses js { s with response := r } := by
  induction xs generalizing s with
  | nil => exact ⟨s.response, rfl, rfl⟩
  | cons x xs ih =>
    have hx : (BitVec.ofNat 16 x).toNat = x := by
      have := hxs x List.mem_cons_self
      rw [BitVec.toNat_ofNat]
      omega
    have hread := exec_frread_of_held (i := BitVec.ofNat 16 x) hheld (by rw [hx]; exact hxs x List.mem_cons_self) hfits
    rw [hx] at hread
    obtain ⟨r, hexec, hresponses⟩ := ih (s := s.respond .ok ((s.obuf.read x).zeroExtend 16)) hheld hfits
      (fun y hy => hxs y (List.mem_cons_of_mem _ hy))
    refine ⟨r, ?_, ?_⟩
    · rw [List.map_cons, List.cons_append, execAll_cons_of_next hread]
      exact hexec
    · rw [List.map_cons, List.cons_append, responses_cons_of_next hread, hresponses]
      rfl

/-- OUTINFO while a frame is held (10_state.md R37). -/
theorem readReg_outinfo_of_held {s : State} (h : s.outv = true) :
    s.readReg .outinfo = BitVec.ofNat 16 (s.outSchema.toNat + 2 ^ 8 + 2 ^ 9 * bit s.outCkok) := by
  have hword := readReg_outinfo_toNat s
  rw [h, show bit true = 1 from rfl, Nat.mul_one] at hword
  rw [← hword, BitVec.ofNat_toNat, BitVec.setWidth_eq]

/-! ### The statements -/

/-- Settles O14: the two reads, each the sum of its fields. -/
theorem statusAndCandidatesRead : Obligations.StatusAndCandidatesRead := fun s =>
  ⟨⟨_, exec_rdreg_global (k := 0x02) rfl s, readReg_status_toNat s⟩,
    ⟨_, exec_rdreg_global (k := 0x0C) rfl s, readReg_cand_toNat s⟩⟩

/-- Settles O19: each field is a range of bits, and the two checks are conjunctions of bounds. -/
theorem slotFieldsAndWellFormed : Obligations.SlotFieldsAndWellFormed := fun b x =>
  ⟨x.en_iff, x.kind_iff, x.rhlen_eq, x.nhlen_eq, headerBytes_toNat x.rhdr23 x.rhdr01, headerBytes_toNat x.nhdr23 x.nhdr01,
    by rw [Slot.wellFormed_iff]; cases x.kind <;> rfl, by rw [Slot.eligible, Bool.and_eq_true]⟩

/-- Settles O21: RDREG's row of the opcode table, and the read at an address of each kind. -/
theorem rdregOfEveryAddress : Obligations.RdregOfEveryAddress := by
  refine ⟨wordsMean_row (.rdreg 0), fun s a => ⟨exec_rdreg_of_unmapped, fun hmapped => ?_, ?_, fun j x hx => ?_⟩⟩
  · obtain ⟨r, hr⟩ := Option.ne_none_iff_exists'.1 (mt regAt_eq_none_iff.1 hmapped)
    exact ⟨_, exec_rdreg_of_regAt hr⟩
  · rintro rfl
    exact exec_rdreg_global (k := 0x03) rfl s
  · obtain ⟨hj, rfl⟩ := State.slotAt_of_getElem? hx
    have hread : ∀ k r, slotReg j k = some r → a.toNat = 0x10 + 8 * j + k → k < 6 →
        exec (.rdreg a) s = .next (s.respond .ok (s.readReg r)) := fun k r hr ha hk =>
      exec_rdreg_of_regAt ((regAt_slot ha (by omega) hj).trans hr)
    exact ⟨fun ha => hread 0 _ rfl ha (by decide), fun ha => hread 1 _ rfl ha (by decide),
      fun ha => hread 2 _ rfl ha (by decide), fun ha => hread 3 _ rfl ha (by decide),
      fun ha => hread 4 _ rfl ha (by decide), fun ha => hread 5 _ rfl ha (by decide)⟩

/-- Settles O23: the write sets one register of one slot; another address holds another register. -/
theorem slotRegisterReadsBack : Obligations.SlotRegisterReadsBack := by
  intro s j k d hlegal hj hk
  have hlegal' := State.setSlot_legal hlegal j ((s.slotAt j).withReg d k)
  refine ⟨_, exec_wrreg_slotAddr hlegal hj hk d, ?_, fun a w hne hcfgerr hread => ?_⟩
  · have hback := exec_rdreg_slotAddr
      (s := (s.setSlot j ((s.slotAt j).withReg d k)).respond .ok 0x0000) (k := k) hlegal' (by
        rw [State.nschema_congr (State.respond_slots _ _ _), State.setSlot_nschema]; exact hj) hk
    rw [State.slotAt_congr (State.respond_slots _ _ _), State.slotAt_setSlot_same hj, Slot.reg_withReg_same _ d hk] at hback
    exact hback
  · obtain ⟨-, heq⟩ | ⟨r, hr, heq⟩ := execRdreg_eq_next_iff.1 hread
    · have hresponse := congrArg State.response heq
      simp at hresponse
    · have hw : w = s.readReg r := by
        have hresponse := congrArg State.response heq
        simpa using hresponse
      have hsame : (s.setSlot j ((s.slotAt j).withReg d k)).readReg r = s.readReg r := by
        obtain hglobal | ⟨l, m, hl, hm, ha, hslot⟩ := regAt_cases hr
        · refine readReg_global_setSlot hglobal (fun h8 => hcfgerr ?_) s j _
          exact BitVec.eq_of_toNat_eq h8
        · rw [readReg_slotReg hm hslot, readReg_slotReg hm hslot]
          refine slotReg_setSlot_other d hk hm ?_
          by_contra hboth
          obtain ⟨rfl, rfl⟩ : l = j ∧ m = k := by tauto
          exact hne (BitVec.eq_of_toNat_eq (ha.trans (slotAddr_toNat (Nat.lt_of_lt_of_le hj hlegal.2.1) hk).symm))
      have hr' : regAt ((s.setSlot j ((s.slotAt j).withReg d k)).respond .ok 0x0000).nschema a = some r := by
        rw [State.nschema_congr (State.respond_slots _ _ _), State.setSlot_nschema]
        exact hr
      have hread' := exec_rdreg_of_regAt hr'
      rw [readReg_respond, hsame, ← hw] at hread'
      exact hread'

/-- Settles O24: the write clears the bits named, and STATUS is made of its bits. -/
theorem statusIsWriteOneToClear : Obligations.StatusIsWriteOneToClear := by
  intro s d
  refine ⟨_, exec_wrreg_of_writable (regAt_of_globalReg (k := 0x02) rfl s.nschema) rfl d, ?_, rfl⟩
  refine BitVec.eq_of_getLsbD_eq fun k hk => ?_
  change (s.clearSticky d).statusWord.getLsbD k = _
  rw [statusWord_getLsbD _ hk, BitVec.getLsbD_and, statusWord_getLsbD _ hk, BitVec.getLsbD_not, BitVec.getLsbD_and,
    decide_eq_true hk, Bool.true_and]
  interval_cases k <;> simp [State.outck, State.busy, -BitVec.getLsbD_eq_getElem]

/-- Settles O26: OUTINFO, OUTLEN, the bytes of the frame, then RELEASE. -/
theorem readframeReturnsTheHeldFrame : Obligations.ReadframeReturnsTheHeldFrame := by
  intro s hheld hfits
  have hinfo : exec (.rdreg 0x06) s = .next (s.respond .ok (s.readReg .outinfo)) := exec_rdreg_global (k := 0x06) rfl s
  rw [readReg_outinfo_of_held hheld] at hinfo
  generalize BitVec.ofNat 16 (s.outSchema.toNat + 2 ^ 8 + 2 ^ 9 * bit s.outCkok) = info at hinfo ⊢
  have hlen : exec (.rdreg 0x07) (s.respond .ok info) = .next ((s.respond .ok info).respond .ok s.outLen) :=
    exec_rdreg_global (k := 0x07) rfl _
  obtain ⟨r, hexec, hresponses⟩ := frreads_of_held (s := (s.respond .ok info).respond .ok s.outLen) hheld hfits [.release]
    (xs := List.range s.outLen.toNat) (fun x hx => List.mem_range.1 hx)
  have hrelease : exec .release { s with response := r } =
      .next { s with outv := false, outLen := 0, outSchema := 0, outCkok := false, response := some ⟨.ok, 0x0000⟩ } :=
    exec_release_of_held (s := { s with response := r }) hheld
  rw [readFrame, List.append_assoc, List.cons_append, List.singleton_append]
  constructor
  · rw [responses_cons_of_next hinfo, responses_cons_of_next hlen, hresponses, Memory.bytes, List.map_map,
      List.append_assoc]
    exact congrArg (fun l => _ :: _ :: (_ ++ l)) (responses_cons_of_next hrelease)
  · rw [execAll_cons_of_next hinfo, execAll_cons_of_next hlen, hexec]
    exact execAll_cons_of_next hrelease

/-- Settles O29: a read changes the response only, and no read depends on it. -/
theorem readsAreIdempotent : Obligations.ReadsAreIdempotent := by
  rintro i s t (⟨a, rfl⟩ | ⟨x, rfl⟩) h
  · obtain ⟨hr, rfl⟩ | ⟨r, hr, rfl⟩ := execRdreg_eq_next_iff.1 h
    · exact ⟨execRdreg_eq_next_iff.2 (.inl ⟨hr, rfl⟩), fun d hd => (State.raise_response_ne_ok (by decide) hd).elim⟩
    · exact ⟨execRdreg_eq_next_iff.2 (.inr ⟨r, hr, by rw [readReg_respond]; rfl⟩), fun d => State.eq_of_respond_response⟩
  · obtain ⟨hv, rfl⟩ | ⟨hv, hpast, rfl⟩ | ⟨hv, hin, hroom, rfl⟩ := execFrread_eq_next_iff.1 h
    · exact ⟨exec_frread_of_free (s := s.raise .noFrame) hv x, fun d hd => (State.raise_response_ne_ok (by decide) hd).elim⟩
    · exact ⟨exec_frread_of_past_end (s := s.raise .range) hv hpast,
        fun d hd => (State.raise_response_ne_ok (by decide) hd).elim⟩
    · exact ⟨execFrread_eq_next_iff.2 (.inr (.inr ⟨hv, hin, hroom, rfl⟩)), fun d => State.eq_of_respond_response⟩

/-- Settles O51: the seven writes leave the slot with the values given, armed and well-formed. -/
theorem armMakesTheSlotEligible : Obligations.ArmMakesTheSlotEligible := by
  intro s j kind rh01 rh23 nh01 nh23 explen rhlen nhlen hlegal hj hrhlen hrhlen4 hnhlen4 hexplen hfits
  have hexec := execAll_writeSlot (j := j) (w := (0, 0x0000))
    (ws := [(1, explen), (2, rh01), (3, rh23), (4, nh01), (5, nh23),
      (0, 0#8 ++ nhlen ++ rhlen ++ BitVec.ofBool kind.bit ++ 1#1)])
    (by simp) (by decide) hlegal hj
  have hslot := State.slotAt_setSlot_same hj (armedSlot kind rh01 rh23 nh01 nh23 explen rhlen nhlen)
  refine ⟨_, armedSlot kind rh01 rh23 nh01 nh23 explen rhlen nhlen, hexec, rfl, hslot, ?_, armedSlot_kind ..,
    armedSlot_rhlen .., armedSlot_nhlen .., rfl, rfl, rfl, rfl, rfl⟩
  exact (congrArg (Slot.eligible s.bufmax) hslot).trans
    (armedSlot_eligible kind rh01 rh23 nh01 nh23 explen rhlen nhlen hrhlen hrhlen4 hnhlen4 hexplen hfits)

end Sys2Proof.Machine
end

section
/-! PROOFS. The checksum functions of 40_checksum.md: the CRC as a polynomial division, its residue, valid frames, and the
standalone unit over a sequence. -/

namespace Sys2Proof.Machine

/-! ### The CRC step as a division step -/

/-- The bit step reads the lowest bit only; the other bits of an operand pass through it shifted (40_checksum.md R102). -/
theorem crcShift_xor (c v : Word) : crcShift (c ^^^ v) = crcShift (c ^^^ (v &&& 1#16)) ^^^ (v >>> 1) := by
  have hone : (v &&& 1#16) >>> 1 = 0#16 := by
    rw [BitVec.ushiftRight_and_distrib, show (1#16 >>> 1) = 0#16 by decide, BitVec.and_zero]
  have hlow : (c ^^^ (v &&& 1#16)).getLsbD 0 = (c ^^^ v).getLsbD 0 := by simp [-BitVec.getLsbD_eq_getElem]
  rw [crcShift, crcShift, hlow, BitVec.ushiftRight_xor_distrib, BitVec.ushiftRight_xor_distrib, hone, BitVec.xor_zero]
  split
  · rw [BitVec.xor_assoc, BitVec.xor_assoc, BitVec.xor_comm (v >>> 1)]
  · rfl

theorem getLsbD_reverse {n : Nat} (v : BitVec n) {k : Nat} (hk : k < n) :
    v.reverse.getLsbD k = v.getLsbD (n - 1 - k) := by
  rw [BitVec.getLsbD_reverse, BitVec.getMsbD_eq_getLsbD, decide_eq_true hk, Bool.true_and]

theorem reverse_xor {n : Nat} (v w : BitVec n) : (v ^^^ w).reverse = v.reverse ^^^ w.reverse := by
  refine BitVec.eq_of_getLsbD_eq fun k hk => ?_
  rw [BitVec.getLsbD_xor, getLsbD_reverse _ hk, getLsbD_reverse _ hk, getLsbD_reverse _ hk, BitVec.getLsbD_xor]

theorem reverse_ushiftRight_one (c : Word) : (c >>> 1).reverse = c.reverse <<< 1 := by
  refine BitVec.eq_of_getLsbD_eq fun k hk => ?_
  rw [getLsbD_reverse _ hk, BitVec.getLsbD_ushiftRight, BitVec.getLsbD_shiftLeft, decide_eq_true hk, Bool.true_and]
  by_cases h0 : k = 0
  · subst h0
    simp
  · rw [getLsbD_reverse _ (by omega), decide_eq_false (by omega), Bool.not_false, Bool.true_and]
    congr 1
    omega

/-- The bit step with one bit of the sequence fed in is the division step on the reversed register: the polynomial 0x8005
is 0xA001 reversed. -/
theorem crcShift_reverse (c v : Word) : (crcShift (c ^^^ (v &&& 1#16))).reverse = lfsrStep c.reverse (v.getLsbD 0) := by
  have hone : (v &&& 1#16) >>> 1 = 0#16 := by
    rw [BitVec.ushiftRight_and_distrib, show (1#16 >>> 1) = 0#16 by decide, BitVec.and_zero]
  have hlow : (c ^^^ (v &&& 1#16)).getLsbD 0 = (c.reverse.msb ^^ v.getLsbD 0) := by
    rw [BitVec.msb_reverse]
    simp [-BitVec.getLsbD_eq_getElem]
  rw [crcShift, hlow, lfsrStep, BitVec.ushiftRight_xor_distrib, hone, BitVec.xor_zero]
  split
  · rw [reverse_xor, reverse_ushiftRight_one, show (0xA001#16).reverse = 0x8005#16 by decide]
  · exact reverse_ushiftRight_one c

/-- `n` bit steps on a register with `n` bits of the sequence fed in at once divide by those bits, lowest first. -/
theorem crcShifts_reverse (n : Nat) (c v : Word) (hv : v.toNat < 2 ^ n) :
    (crcShifts n (c ^^^ v)).reverse = ((List.range n).map v.getLsbD).foldl lfsrStep c.reverse := by
  induction n generalizing c v with
  | zero =>
    obtain rfl : v = 0 := BitVec.eq_of_toNat_eq (by simpa using hv)
    rw [show c ^^^ (0 : Word) = c from BitVec.xor_zero]
    rfl
  | succ n ih =>
    have hrest : (v >>> 1).toNat < 2 ^ n := by
      rw [BitVec.toNat_ushiftRight, Nat.shiftRight_eq_div_pow]
      rw [Nat.pow_succ] at hv
      omega
    have hbits : (List.range n).map (v >>> 1).getLsbD = (List.range n).map (v.getLsbD ∘ Nat.succ) :=
      List.map_congr_left fun k _ => by rw [BitVec.getLsbD_ushiftRight, Nat.add_comm]; rfl
    rw [crcShifts_succ, crcShift_xor, ih _ _ hrest, crcShift_reverse, hbits, List.range_succ_eq_map, List.map_cons,
      List.map_map, List.foldl_cons]

theorem zeroExtend_getLsbD_byte (b : Byte) {k : Nat} (hk : k < 8) : (b.zeroExtend 16).getLsbD k = b.getLsbD k := by
  have h16 : k < 16 := by omega
  rw [BitVec.zeroExtend, BitVec.getLsbD_setWidth, decide_eq_true h16, Bool.true_and]

theorem zeroExtend_byte_toNat (b : Byte) : (b.zeroExtend 16).toNat = b.toNat := by
  rw [BitVec.zeroExtend, BitVec.toNat_setWidth, Nat.mod_eq_of_lt (by omega)]

theorem crcStep_reverse (c : Word) (b : Byte) :
    (crcStep c b).reverse = ((List.range 8).map b.getLsbD).foldl lfsrStep c.reverse := by
  rw [crcStep, crcShifts_reverse 8 c _ (by rw [zeroExtend_byte_toNat]; exact b.isLt)]
  exact congrArg (List.foldl lfsrStep c.reverse) (List.map_congr_left fun k hk =>
    zeroExtend_getLsbD_byte b (List.mem_range.1 hk))

theorem foldl_crcStep_reverse (bs : List Byte) (c : Word) :
    (bs.foldl crcStep c).reverse =
      (bs.flatMap fun b => (List.range 8).map b.getLsbD).foldl lfsrStep c.reverse := by
  induction bs generalizing c with
  | nil => rfl
  | cons b bs ih => rw [List.foldl_cons, ih, crcStep_reverse, List.flatMap_cons, List.foldl_append]

/-! ### The residue -/

/-- Bits that are zero are only shifted out. -/
theorem crcShifts_of_low_zero (n : Nat) (c : Word) (h : ∀ k < n, c.getLsbD k = false) : crcShifts n c = c >>> n := by
  induction n generalizing c with
  | zero => rw [crcShifts, BitVec.ushiftRight_zero]
  | succ n ih =>
    have hshift : crcShift c = c >>> 1 := by
      rw [crcShift, h 0 (Nat.succ_pos n)]
      rfl
    rw [crcShifts_succ, hshift, ih, ← BitVec.shiftRight_add, Nat.add_comm]
    intro k hk
    rw [BitVec.getLsbD_ushiftRight]
    exact h _ (by omega)

/-- Feeding the register's own low byte leaves its high byte (40_checksum.md R106). -/
theorem crcStep_lowByte (c : Word) : crcStep c (c.extractLsb' 0 8) = c >>> 8 := by
  have hlow : ∀ k < 8, (c ^^^ (c.extractLsb' 0 8).zeroExtend 16).getLsbD k = false := fun k hk => by
    rw [BitVec.getLsbD_xor, zeroExtend_getLsbD_byte _ hk, BitVec.getLsbD_extractLsb', decide_eq_true hk, Bool.true_and,
      Nat.zero_add, Bool.xor_self]
  have hbyte : (c.extractLsb' 0 8).zeroExtend 16 >>> 8 = 0#16 := by
    apply BitVec.eq_of_toNat_eq
    rw [BitVec.toNat_ushiftRight, zeroExtend_byte_toNat, Nat.shiftRight_eq_div_pow, Nat.div_eq_of_lt (by omega)]
    rfl
  rw [crcStep, crcShifts_of_low_zero 8 _ hlow, BitVec.ushiftRight_xor_distrib, hbyte, BitVec.xor_zero]

/-- Feeding its low byte and then its high byte leaves nothing. -/
theorem crcStep_lowByte_highByte (c : Word) : crcStep (crcStep c (c.extractLsb' 0 8)) (c.extractLsb' 8 8) = 0x0000 := by
  have hhigh : (c >>> 8) ^^^ (c.extractLsb' 8 8).zeroExtend 16 = 0#16 := by
    have heq : (c.extractLsb' 8 8).zeroExtend 16 = c >>> 8 := by
      apply BitVec.eq_of_toNat_eq
      rw [zeroExtend_byte_toNat, BitVec.extractLsb'_toNat, BitVec.toNat_ushiftRight, Nat.shiftRight_eq_div_pow]
      omega
    rw [heq, BitVec.xor_self]
  rw [crcStep_lowByte, crcStep, hhigh]
  decide

/-! ### Valid frames -/

/-- A sequence followed by as many bytes as its checksum has is valid when they are its checksum (R105). -/
theorem validate_append {k : Kind} {xs ck : List Byte} (h : ck.length = ckLen k) :
    validate k (xs ++ ck) = true ↔ compute k xs = ck := by
  have hlen : (xs ++ ck).length - ckLen k = xs.length := by rw [List.length_append, h, Nat.add_sub_cancel]
  rw [validate_eq_true_iff, hlen, List.take_left, List.drop_left, and_iff_right]
  rw [List.length_append, h]
  exact Nat.le_add_left _ _

theorem validate_of_short {k : Kind} {f : List Byte} (h : f.length < ckLen k) : validate k f = false := by
  rw [validate, decide_eq_false (by omega), Bool.false_and]

theorem validate_sum_append (xs : List Byte) (x : Byte) : validate .sum (xs ++ [x]) = true ↔ sum8 xs = x := by
  rw [validate_append rfl]
  exact List.singleton_inj

theorem validate_crc_append (xs : List Byte) (x y : Byte) : validate .crc (xs ++ [x, y]) = true ↔ y ++ x = crc16 xs := by
  rw [validate_append rfl, compute, List.cons.injEq, List.singleton_inj]
  constructor
  · rintro ⟨rfl, rfl⟩
    apply BitVec.eq_of_toNat_eq
    have := (crc16 xs).isLt
    simp only [toNat_append_eq_add, BitVec.extractLsb'_toNat, Nat.shiftRight_eq_div_pow]
    omega
  · intro h
    rw [← h]
    constructor
    · apply BitVec.eq_of_toNat_eq
      simp only [toNat_append_eq_add, BitVec.extractLsb'_toNat, Nat.shiftRight_eq_div_pow]
      omega
    · apply BitVec.eq_of_toNat_eq
      have := x.isLt
      have := y.isLt
      simp only [toNat_append_eq_add, BitVec.extractLsb'_toNat, Nat.shiftRight_eq_div_pow]
      omega

/-- The sum of a sequence with one byte singled out. -/
theorem sum8_middle (xs : List Byte) (x : Byte) (ys : List Byte) :
    (sum8 (xs ++ x :: ys)).toNat =
      ((xs.map BitVec.toNat).sum + x.toNat + (ys.map BitVec.toNat).sum) % 2 ^ 8 := by
  rw [sum8_toNat, List.map_append, List.map_cons, List.sum_append, List.sum_cons, Nat.add_assoc]

/-- A changed byte changes the sum. -/
theorem sum8_middle_inj {xs ys : List Byte} {x y : Byte} (h : sum8 (xs ++ x :: ys) = sum8 (xs ++ y :: ys)) : x = y := by
  have hsum := congrArg BitVec.toNat h
  rw [sum8_middle, sum8_middle] at hsum
  apply BitVec.eq_of_toNat_eq
  omega

/-- The sum detects every change of one byte, of the sequence or of the checksum (R112). -/
theorem validate_sum_set_of_ne {f : List Byte} {i : Nat} (hi : i < f.length) {x : Byte} (hx : x ≠ f.getD i 0)
    (hvalid : validate .sum f = true) : validate .sum (f.set i x) = false := by
  obtain ⟨xs, c, rfl⟩ : ∃ xs c, f = xs ++ [c] := by
    obtain rfl | h := List.eq_nil_or_concat' f
    · cases hi
    · exact h
  rw [validate_sum_append] at hvalid
  rw [← Bool.not_eq_true]
  intro hvalid'
  obtain hlt | hlast := Nat.lt_or_ge i xs.length
  · rw [List.set_append_left _ _ hlt, validate_sum_append, ← hvalid, List.set_eq_take_append_cons_drop, if_pos hlt] at hvalid'
    have hsplit : xs = xs.take i ++ xs[i] :: xs.drop (i + 1) := by
      rw [List.getElem_cons_drop, List.take_append_drop]
    have hsame := hvalid'.trans (congrArg sum8 hsplit)
    rw [List.getD_append _ _ _ _ hlt, List.getD_eq_getElem _ _ hlt] at hx
    exact hx (sum8_middle_inj hsame)
  · have hi' : i = xs.length := by
      rw [List.length_append, List.length_singleton] at hi
      omega
    subst hi'
    rw [List.set_append_right _ _ (Nat.le_refl _), Nat.sub_self, List.set_cons_zero, validate_sum_append, hvalid] at hvalid'
    refine hx (hvalid'.symm.trans ?_)
    simp

/-- Flipping a bit of a byte changes it. -/
theorem xor_shiftLeft_one_ne (b : Byte) {k : Nat} (hk : k < 8) : b ^^^ (1#8 <<< k) ≠ b := by
  intro h
  have hbit := congrArg (fun v => v.getLsbD k) h
  simp [hk, -BitVec.getLsbD_eq_getElem] at hbit

/-! ### The standalone unit over a sequence -/

/-- The accumulator after the bytes of a sequence. -/
def ckAccOf (k : Kind) (bs : List Byte) : Word := bs.foldl (ckAccumulate k) (ckInitial k)

theorem ckAccOf_append (k : Kind) (bs : List Byte) (b : Byte) :
    ckAccOf k (bs ++ [b]) = ckAccumulate k (ckAccOf k bs) b := by
  rw [ckAccOf, List.foldl_append]
  rfl

theorem ckAccOf_crc (bs : List Byte) : ckAccOf .crc bs = crc16 bs := rfl

theorem zeroExtend_extractLsb'_byte (b : Byte) : (b.zeroExtend 16).extractLsb' 0 8 = b := by
  apply BitVec.eq_of_toNat_eq
  rw [BitVec.extractLsb'_toNat, zeroExtend_byte_toNat, Nat.shiftRight_zero, Nat.mod_eq_of_lt b.isLt]

theorem ckAccOf_sum (bs : List Byte) : ckAccOf .sum bs = (sum8 bs).zeroExtend 16 := by
  induction bs using List.reverseRecOn with
  | nil => rfl
  | append_singleton bs b ih =>
    rw [ckAccOf_append, ih, ckAccumulate, zeroExtend_extractLsb'_byte, sum8_append]
    rfl

/-- The registers of the unit after CKINIT and CKFEED of a sequence (R110): the lag registers hold the accumulator one and
two bytes ago, B1 and B2 the last two bytes. -/
structure State.CkHolds (s : State) (k : Kind) (bs : List Byte) : Prop where
  kind : s.ckKind = k
  cnt : s.ckCnt.toNat = min bs.length 0xFFFF
  acc : s.ckAcc = ckAccOf k bs
  p1 : s.ckP1 = ckAccOf k bs.dropLast
  p2 : s.ckP2 = ckAccOf k bs.dropLast.dropLast
  b1 : s.ckB1 = bs.getLast?.getD 0x00
  b2 : s.ckB2 = bs.dropLast.getLast?.getD 0x00

theorem exec_ckinit_holds (k : Kind) (s : State) :
    ∃ t, exec (.ckinit k) s = .next t ∧ t.CkHolds k [] :=
  ⟨_, rfl, rfl, rfl, rfl, rfl, rfl, rfl, rfl⟩

theorem exec_ckfeed_holds {s : State} {k : Kind} {bs : List Byte} (h : s.CkHolds k bs) (b : Byte) :
    ∃ t, exec (.ckfeed b) s = .next t ∧ t.CkHolds k (bs ++ [b]) := by
  obtain ⟨hkind, hcnt, hacc, hp1, hp2, hb1, hb2⟩ := h
  refine ⟨_, rfl, hkind, ?_, ?_, ?_, ?_, ?_, ?_⟩
  · change (ckCountNext s.ckCnt).toNat = _
    rw [ckCountNext_toNat, hcnt, List.length_append, List.length_singleton]
    omega
  · rw [ckAccOf_append, ← hacc, ← hkind]
    rfl
  · rw [List.dropLast_concat]
    exact hacc
  · rw [List.dropLast_concat]
    exact hp1
  · rw [List.getLast?_concat]
    rfl
  · rw [List.dropLast_concat]
    exact hb1

/-- What a run of the checksum operations leaves alone: all but the unit and the response. -/
def State.OnlyChecksum (s t : State) : Prop :=
  t = { s with ckKind := t.ckKind, ckCnt := t.ckCnt, ckAcc := t.ckAcc, ckP1 := t.ckP1, ckP2 := t.ckP2, ckB1 := t.ckB1,
               ckB2 := t.ckB2, response := some ⟨.ok, 0x0000⟩ }

theorem execAll_ckfeeds {s : State} {k : Kind} {bs : List Byte} (h : s.CkHolds k bs)
    (hresponse : s.response = some ⟨.ok, 0x0000⟩) (cs : List Byte) :
    ∃ t, execAll (cs.map .ckfeed) s = .next t ∧ t.CkHolds k (bs ++ cs) ∧ s.OnlyChecksum t := by
  induction cs generalizing s bs with
  | nil =>
    refine ⟨s, rfl, by rwa [List.append_nil], ?_⟩
    rw [State.OnlyChecksum, ← hresponse]
  | cons c cs ih =>
    obtain ⟨u, hu, hholds⟩ := exec_ckfeed_holds h c
    obtain ⟨t, ht, htholds, honly⟩ := ih hholds (by cases hu; rfl)
    refine ⟨t, (execAll_cons_of_next hu).trans ht, by rwa [List.append_assoc, List.singleton_append] at htholds, ?_⟩
    cases hu
    exact honly

theorem execAll_ckRun (k : Kind) (bs : List Byte) (s : State) :
    ∃ t, execAll (ckRun k bs) s = .next t ∧ t.CkHolds k bs ∧ s.OnlyChecksum t := by
  obtain ⟨u, hu, hholds⟩ := exec_ckinit_holds k s
  obtain ⟨t, ht, htholds, honly⟩ := execAll_ckfeeds hholds (by cases hu; rfl) bs
  refine ⟨t, (execAll_cons_of_next hu).trans ht, htholds, ?_⟩
  cases hu
  exact honly

/-- CK_OK after a sequence is its validity (R111). The count saturates far above the two bytes it is compared with. -/
theorem State.CkHolds.ckOk {s : State} {k : Kind} {bs : List Byte} (h : s.CkHolds k bs) : s.ckOk = validate k bs := by
  obtain ⟨hkind, hcnt, -, hp1, hp2, hb1, hb2⟩ := h
  rw [Bool.eq_iff_iff]
  cases k with
  | sum =>
    rw [State.ckOk_iff_of_sum hkind, hcnt, hb1, hp1, ckAccOf_sum, zeroExtend_byte_toNat, Nat.mod_eq_of_lt (BitVec.isLt _)]
    induction bs using List.reverseRecOn with
    | nil => decide
    | append_singleton xs x _ =>
      rw [List.dropLast_concat, List.getLast?_concat, Option.getD_some, validate_sum_append, List.length_append,
        List.length_singleton, BitVec.toNat_inj, eq_comm (a := x), and_iff_right]
      omega
  | crc =>
    rw [State.ckOk_iff_of_crc hkind, hcnt, hb1, hb2, hp2, ckAccOf_crc, ← toNat_append_eq_add, BitVec.toNat_inj]
    induction bs using List.reverseRecOn with
    | nil => decide
    | append_singleton ys y _ =>
      induction ys using List.reverseRecOn with
      | nil =>
        rw [List.nil_append, validate_of_short (by simp [ckLen])]
        simp
      | append_singleton xs x _ =>
        rw [List.dropLast_concat, List.dropLast_concat, List.getLast?_concat, List.getLast?_concat, Option.getD_some,
          Option.getD_some, List.append_assoc, List.singleton_append, validate_crc_append, List.length_append,
          and_iff_right]
        change 2 ≤ min (xs.length + 2) 0xFFFF
        omega

/-! ### The statements -/

/-- Settles O38: the byte step feeds eight bits, lowest first, to the division step. -/
theorem crcIsPolynomialDivision : Obligations.CrcIsPolynomialDivision := by
  refine ⟨crcStep_reverse, fun bs => ?_⟩
  rw [crc16, foldl_crcStep_reverse, show (0xFFFF : Word).reverse = 0xFFFF by decide]

/-- Settles O39: the appended bytes are the checksum, and they are the register's own two bytes. -/
theorem appendedChecksumIsValid : Obligations.AppendedChecksumIsValid := by
  refine ⟨fun k x => (validate_append (compute_length k x)).2 rfl, fun x => ?_⟩
  rw [crc16_append]
  exact crcStep_lowByte_highByte (crc16 x)

/-- Settles O40: the unit holds the accumulator of the sequence, and CK_OK is the sequence's validity. -/
theorem checksumUnitComputesAndValidates : Obligations.ChecksumUnitComputesAndValidates := by
  intro k bs s
  obtain ⟨t, ht, hholds, honly⟩ := execAll_ckRun k bs s
  have hkind := hholds.kind
  have hacc := hholds.acc
  refine ⟨t, ht, ?_, ?_, hholds.cnt, hholds.ckOk, exec_rdreg_global (k := 0x0A) rfl t, ?_⟩
  · rw [State.OnlyChecksum, hkind] at honly
    exact honly
  · cases k with
    | sum => rw [hacc, ckAccOf_sum]
    | crc => exact hacc
  · cases k with
    | sum =>
      rw [hacc, ckAccOf_sum]
      dsimp only
      rw [zeroExtend_extractLsb'_byte, compute]
    | crc =>
      rw [hacc]
      rfl

/-- Settles O41: sequences shorter than their checksum, the shortest valid ones, and what the sum does and does not
detect: every change of one byte, but not that of two with the same total. -/
theorem checksumCornerCases : Obligations.ChecksumCornerCases := by
  refine ⟨validate_of_short (by decide), fun x => validate_of_short (by simp [ckLen]), by decide, by decide,
    fun f i k hi hk hvalid => ?_, [0x01, 0x02, 0x03], 0, 1, 0x02, 0x01, by decide⟩
  exact validate_sum_set_of_ne hi (xor_shiftLeft_one_ne _ hk) hvalid

end Sys2Proof.Machine
end

section
/-! PROOFS. Chunks of the stream delivered from IDLE (41_reassembler.md R131 to R135): the header match against a sequence
of bytes, the accumulation of a frame, a frame in any chunks, a noise chunk, and the bytes after a CANCEL. -/

namespace Sys2Proof.Machine

/-! ### Bytes that open no chunk -/

/-- In IDLE with RQ = 0 a byte without SOF is dropped (41_reassembler.md R122). -/
theorem execAll_push_dropped {s : State} (hidle : s.fsm = .idle) (hrq : s.rq = false)
    (hresponse : s.response = some ⟨.ok, 0x0000⟩) (bs : List Byte) : execAll (bs.map (.push false)) s = .next s := by
  have hsame : s.respond .ok 0x0000 = s := by rw [State.respond, ← hresponse]
  induction bs with
  | nil => rfl
  | cons b bs ih =>
    have hdrop := exec_push_of_ok (State.pushByte_of_idle_drop hidle rfl hrq b)
    rw [hsame] at hdrop
    exact (execAll_cons_of_next hdrop).trans ih

/-! ### Headers at the start of a sequence -/

/-- The first `k` bytes of the sequence are those of the header `h`. -/
def HeaderAgrees (h : Nat → Byte) (f : List Byte) (k : Nat) : Prop := ∀ m < k, f[m]? = some (h m)

theorem headerAgrees_zero (h : Nat → Byte) (f : List Byte) : HeaderAgrees h f 0 := fun m hm => absurd hm (Nat.not_lt_zero m)

theorem headerAgrees_succ {h : Nat → Byte} {f : List Byte} {k : Nat} :
    HeaderAgrees h f (k + 1) ↔ HeaderAgrees h f k ∧ f[k]? = some (h k) :=
  Nat.forall_lt_succ_right

theorem HeaderAgrees.mono {h : Nat → Byte} {f : List Byte} {k l : Nat} (hagrees : HeaderAgrees h f l) (hkl : k ≤ l) :
    HeaderAgrees h f k := fun m hm => hagrees m (Nat.lt_of_lt_of_le hm hkl)

theorem take_eq_map_range_iff {h : Nat → Byte} {f : List Byte} {n : Nat} :
    f.take n = (List.range n).map h ↔ HeaderAgrees h f n := by
  rw [List.ext_getElem?_iff]
  constructor
  · intro heq m hm
    have := heq m
    rwa [List.getElem?_take_of_lt hm, List.getElem?_map, List.getElem?_range hm] at this
  · intro hagrees m
    obtain hm | hm := Nat.lt_or_ge m n
    · rw [List.getElem?_take_of_lt hm, hagrees m hm, List.getElem?_map, List.getElem?_range hm]
      rfl
    · rw [List.getElem?_take_eq_none hm, List.getElem?_eq_none (by simpa using hm)]

/-- The first `k` bytes of the sequence are the first `k` of eligible slot `i`'s response header. -/
def State.RhPrefix (s : State) (f : List Byte) (k i : Nat) : Prop :=
  s.eligible i = true ∧ k ≤ (s.slotAt i).rhlen ∧ HeaderAgrees (s.slotAt i).rh f k

/-- The first `k` bytes of the sequence are the first `k` of eligible slot `i`'s noise header, which is not empty. -/
def State.NhPrefix (s : State) (f : List Byte) (k i : Nat) : Prop :=
  s.eligible i = true ∧ 1 ≤ (s.slotAt i).nhlen ∧ k ≤ (s.slotAt i).nhlen ∧ HeaderAgrees (s.slotAt i).nh f k

/-- The sequence begins with the whole response header. -/
theorem State.rhPrefix_rhlen_iff {s : State} {f : List Byte} {i : Nat} :
    s.RhPrefix f (s.slotAt i).rhlen i ↔ s.eligible i = true ∧ f.take (s.slotAt i).rhlen = (s.slotAt i).rhBytes := by
  rw [State.RhPrefix, Slot.rhBytes, take_eq_map_range_iff]
  exact ⟨fun ⟨he, _, h⟩ => ⟨he, h⟩, fun ⟨he, h⟩ => ⟨he, Nat.le_refl _, h⟩⟩

theorem State.nhPrefix_nhlen_iff {s : State} {f : List Byte} {i : Nat} :
    s.NhPrefix f (s.slotAt i).nhlen i ↔
      s.eligible i = true ∧ 1 ≤ (s.slotAt i).nhlen ∧ f.take (s.slotAt i).nhlen = (s.slotAt i).nhBytes := by
  rw [State.NhPrefix, Slot.nhBytes, take_eq_map_range_iff]
  exact ⟨fun ⟨he, h1, _, h⟩ => ⟨he, h1, h⟩, fun ⟨he, h1, h⟩ => ⟨he, h1, Nat.le_refl _, h⟩⟩

theorem State.RhPrefix.mono {s : State} {f : List Byte} {k l i : Nat} (h : s.RhPrefix f l i) (hkl : k ≤ l) :
    s.RhPrefix f k i := by
  obtain ⟨he, hl, hagrees⟩ := h
  exact ⟨he, hkl.trans hl, hagrees.mono hkl⟩

theorem State.NhPrefix.mono {s : State} {f : List Byte} {k l i : Nat} (h : s.NhPrefix f l i) (hkl : k ≤ l) :
    s.NhPrefix f k i := by
  obtain ⟨he, h1, hl, hagrees⟩ := h
  exact ⟨he, h1, hkl.trans hl, hagrees.mono hkl⟩

/-! ### The header match against a sequence -/

/-- A state of the header match begun in `s`: only the registers of the match differ. -/
def State.inHeader (s : State) (p : Word) (cn cr : BitVec 8) (r : Memory) (response : Option Response) : State :=
  { s with fsm := .hdr, pos := p, candn := cn, candr := cr, rbuf := r, response := response }

/-- What a header match begun in `s₀` leaves after `k` bytes of the sequence `f`: POS counts them, and the candidates are
the slots whose headers begin with them (41_reassembler.md R124). -/
structure State.Matching (s₀ : State) (f : List Byte) (k : Nat) (s : State) : Prop where
  frame : ∃ p cn cr r response, s = s₀.inHeader p cn cr r response
  pos : s.pos.toNat = k
  candr : ∀ i, s.candr.getLsbD i = true ↔ s₀.RhPrefix f k i
  candn : ∀ i, s.candn.getLsbD i = true ↔ s₀.NhPrefix f k i

/-- START seeds the candidates of the match (R123). -/
theorem State.seed_matching {s : State} (hlegal : s.Legal) (f : List Byte) : s.Matching f 0 s.seed where
  frame := ⟨_, _, _, _, _, rfl⟩
  pos := rfl
  candr i := by
    have hexists : s.eligible i = true → i < 8 ∧ i < s.nschema := fun he =>
      have hi := State.lt_nschema_of_eligible he
      ⟨Nat.lt_of_lt_of_le hi hlegal.2.1, hi⟩
    simp only [State.seed_candr, slotSet_getLsbD, State.RhPrefix, Bool.and_eq_true, decide_eq_true_eq, Nat.zero_le,
      headerAgrees_zero, and_true]
    exact ⟨fun h => h.2, fun he => ⟨hexists he, he⟩⟩
  candn i := by
    have hexists : s.eligible i = true → i < 8 ∧ i < s.nschema := fun he =>
      have hi := State.lt_nschema_of_eligible he
      ⟨Nat.lt_of_lt_of_le hi hlegal.2.1, hi⟩
    simp only [State.seed_candn, slotSet_getLsbD, State.NhPrefix, Bool.and_eq_true, decide_eq_true_eq, Nat.zero_le,
      headerAgrees_zero, and_true]
    exact ⟨fun h => h.2, fun he => ⟨hexists he.1, he⟩⟩

/-- A byte that opens a chunk in IDLE with RQ = 0 is the first byte of a header match from the seeded state. -/
theorem exec_push_start {s : State} (hidle : s.fsm = .idle) (hrq : s.rq = false) (b : Byte) :
    exec (.push true b) s = exec (.push true b) s.seed := by
  refine exec_push_congr ?_
  rw [State.pushByte_of_idle_start hidle (.inl rfl), State.pushByte_of_hdr rfl, State.clearRq_of_rq_false hrq,
    State.start_eq_hdrByte_seed s b true, State.clearRq_of_rq_false (s := s.seed) hrq]
  rfl

section
variable {s₀ s : State} {f : List Byte} {k : Nat} {b : Byte}

theorem State.Matching.slotAt (h : s₀.Matching f k s) (i : Nat) : s.slotAt i = s₀.slotAt i := by
  obtain ⟨p, cn, cr, r, response, rfl⟩ := h.frame
  rfl

theorem State.Matching.fsm (h : s₀.Matching f k s) : s.fsm = .hdr := by
  obtain ⟨p, cn, cr, r, response, rfl⟩ := h.frame
  rfl

theorem State.Matching.rq (h : s₀.Matching f k s) : s.rq = s₀.rq := by
  obtain ⟨p, cn, cr, r, response, rfl⟩ := h.frame
  rfl

theorem State.Matching.legal (h : s₀.Matching f k s) (hlegal : s₀.Legal) : s.Legal := by
  obtain ⟨p, cn, cr, r, response, rfl⟩ := h.frame
  exact hlegal

theorem State.Matching.responseStillMatches_iff (h : s₀.Matching f k s) (hb : f[k]? = some b) {i : Nat} :
    s.ResponseStillMatches b i ↔ s₀.RhPrefix f (k + 1) i := by
  obtain ⟨⟨p, cn, cr, r, response, rfl⟩, rfl, hcandr, -⟩ := h
  rw [State.ResponseStillMatches, hcandr, State.RhPrefix, State.RhPrefix, headerAgrees_succ, hb, Option.some.injEq]
  constructor
  · rintro ⟨⟨he, -, hagrees⟩, -, hlt, hbyte⟩
    exact ⟨he, hlt, hagrees, hbyte.symm⟩
  · rintro ⟨he, hlt, hagrees, hbyte⟩
    exact ⟨⟨he, Nat.le_of_lt hlt, hagrees⟩, he, hlt, hbyte.symm⟩

theorem State.Matching.noiseStillMatches_iff (h : s₀.Matching f k s) (hb : f[k]? = some b) {i : Nat} :
    s.NoiseStillMatches b i ↔ s₀.NhPrefix f (k + 1) i := by
  obtain ⟨⟨p, cn, cr, r, response, rfl⟩, rfl, -, hcandn⟩ := h
  rw [State.NoiseStillMatches, hcandn, State.NhPrefix, State.NhPrefix, headerAgrees_succ, hb, Option.some.injEq]
  constructor
  · rintro ⟨⟨he, h1, -, hagrees⟩, -, hlt, hbyte⟩
    exact ⟨he, h1, hlt, hagrees, hbyte.symm⟩
  · rintro ⟨he, h1, hlt, hagrees, hbyte⟩
    exact ⟨⟨he, h1, Nat.le_of_lt hlt, hagrees⟩, he, hlt, hbyte.symm⟩

/-- Slot `i`'s noise header is complete with the first `k` bytes of the sequence. -/
def State.NoiseCompletes (s : State) (f : List Byte) (k i : Nat) : Prop := s.NhPrefix f k i ∧ (s.slotAt i).nhlen = k

/-- Slot `i`'s response header is complete with the first `k` bytes of the sequence. -/
def State.ResponseCompletes (s : State) (f : List Byte) (k i : Nat) : Prop := s.RhPrefix f k i ∧ (s.slotAt i).rhlen = k

theorem State.Matching.noiseCompletes_iff (h : s₀.Matching f k s) (hb : f[k]? = some b) {i : Nat} :
    s.NoiseStillMatches b i ∧ (s.slotAt i).nhlen = s.pos.toNat + 1 ↔ s₀.NoiseCompletes f (k + 1) i := by
  rw [h.noiseStillMatches_iff hb, h.slotAt, h.pos, State.NoiseCompletes]

theorem State.Matching.responseCompletes_iff (h : s₀.Matching f k s) (hb : f[k]? = some b) {i : Nat} :
    s.ResponseStillMatches b i ∧ (s.slotAt i).rhlen = s.pos.toNat + 1 ↔ s₀.ResponseCompletes f (k + 1) i := by
  rw [h.responseStillMatches_iff hb, h.slotAt, h.pos, State.ResponseCompletes]

/-- The byte completes an eligible slot's noise header (R124): whatever its SOF, the match is dropped. -/
theorem State.Matching.exec_push_noise (h : s₀.Matching f k s) (hrq : s₀.rq = false) (hb : f[k]? = some b)
    (hnoise : ∃ i, s₀.NoiseCompletes f (k + 1) i) (sof : Bool) :
    exec (.push sof b) s = .next (s.dropNoise.respond .ok 0x0000) := by
  refine exec_push_of_ok ((State.pushByte_of_hdr h.fsm sof b).trans ?_)
  rw [State.clearRq_of_rq_false (h.rq.trans hrq)]
  exact State.hdrByte_eq_ok_iff.2 (.inl ⟨State.hdrResult_eq_noise.2 (hnoise.imp fun _ => (h.noiseCompletes_iff hb).2), rfl⟩)

/-- A byte that completes no noise header and is one more byte of some header advances the match. -/
theorem State.Matching.hdrResult_eq_advance (h : s₀.Matching f k s) (hb : f[k]? = some b)
    (hnoise : ¬ ∃ i, s₀.NoiseCompletes f (k + 1) i) {i : Nat} (hi : s₀.NhPrefix f (k + 1) i ∨ s₀.RhPrefix f (k + 1) i) :
    s.hdrResult b = .advance :=
  State.hdrResult_eq_advance (fun hex => hnoise (hex.imp fun _ => (h.noiseCompletes_iff hb).1))
    (hi.imp (h.noiseStillMatches_iff hb).2 (h.responseStillMatches_iff hb).2)

/-- A byte that advances the match and completes no response header keeps the slots whose headers go on. -/
theorem State.Matching.keepCandidates (h : s₀.Matching f k s) (hb : f[k]? = some b) (hadvance : s.hdrResult b = .advance) :
    s₀.Matching f (k + 1)
      (((s.appended b).keepCandidates (s.noiseMatches b) (s.responseMatches b)).respond .ok 0x0000) where
  frame := by
    generalize s.noiseMatches b = cn', s.responseMatches b = cr'
    obtain ⟨p, cn, cr, r, response, rfl⟩ := h.frame
    exact ⟨_, _, _, _, _, rfl⟩
  pos := (State.succ_pos_toNat (State.pos_lt_four_of_advance hadvance) (by decide)).trans (by rw [h.pos])
  candr _ := State.responseMatches_getLsbD.trans (h.responseStillMatches_iff hb)
  candn _ := State.noiseMatches_getLsbD.trans (h.noiseStillMatches_iff hb)

/-- The byte completes no header, but is one more byte of some: whatever its SOF, the match goes on. -/
theorem State.Matching.exec_push_keep (h : s₀.Matching f k s) (hlegal : s₀.Legal) (hrq : s₀.rq = false)
    (hb : f[k]? = some b) (hnoise : ¬ ∃ i, s₀.NoiseCompletes f (k + 1) i) (hresp : ¬ ∃ i, s₀.ResponseCompletes f (k + 1) i)
    {i : Nat} (hi : s₀.NhPrefix f (k + 1) i ∨ s₀.RhPrefix f (k + 1) i) :
    ∃ t, s₀.Matching f (k + 1) t ∧ t.rbuf = s.rbuf.write k b ∧ ∀ sof, exec (.push sof b) s = .next t := by
  have hadvance := h.hdrResult_eq_advance hb hnoise hi
  have hnone : s.responseComplete b = none :=
    State.responseComplete_eq_none.2 fun hex => hresp (hex.imp fun _ => (h.responseCompletes_iff hb).1)
  have hpush := fun sof => exec_push_of_hdr_advance (sof := sof) (h.legal hlegal) h.fsm hadvance (.inr ⟨hnone, rfl⟩)
  rw [State.clearRq_of_rq_false (h.rq.trans hrq)] at hpush
  exact ⟨_, h.keepCandidates hb hadvance, by rw [← h.pos]; rfl, hpush⟩

/-- The byte completes slot `j`'s response header, the lowest of those it completes, and no noise header: whatever its SOF,
the accumulation begins. -/
theorem State.Matching.exec_push_accum (h : s₀.Matching f k s) (hlegal : s₀.Legal) (hrq : s₀.rq = false)
    (hb : f[k]? = some b) (hnoise : ¬ ∃ i, s₀.NoiseCompletes f (k + 1) i) {j : Nat} (hj : s₀.ResponseCompletes f (k + 1) j)
    (hlow : ∀ i < j, ¬ s₀.ResponseCompletes f (k + 1) i) (sof : Bool) :
    exec (.push sof b) s = .next (((s.appended b).toAccum j).respond .ok 0x0000) := by
  have hadvance := h.hdrResult_eq_advance hb hnoise (.inr hj.1)
  obtain ⟨hmatch, hlen⟩ := (h.responseCompletes_iff hb).2 hj
  have hcomplete : s.responseComplete b = some j := State.responseComplete_eq_some.2
    ⟨hmatch, hlen, fun i hi hmatch hlen => hlow i hi ((h.responseCompletes_iff hb).1 ⟨hmatch, hlen⟩)⟩
  have hpush := exec_push_of_hdr_advance (sof := sof) (h.legal hlegal) h.fsm hadvance (.inl ⟨j, hcomplete, rfl⟩)
  rwa [State.clearRq_of_rq_false (h.rq.trans hrq)] at hpush

end

/-! ### The accumulation of a frame -/

/-- A state of the accumulation of a frame begun in `s`: only the registers of the FSM and RBUF differ. -/
def State.inFrame (s : State) (p : Word) (slot : BitVec 3) (r : Memory) (response : Option Response) : State :=
  { s with fsm := .accum, pos := p, slot := slot, candr := 0, candn := 0, rbuf := r, response := response }

/-- What a reception of the frame `f` of slot `j`, begun in `s₀`, leaves after `k` of its bytes: the header match while
the slot's response header is incomplete, then the accumulation, and in RBUF the bytes. -/
structure State.Receiving (s₀ : State) (j : Nat) (f : List Byte) (k : Nat) (s : State) : Prop where
  phase : (k < (s₀.slotAt j).rhlen ∧ s₀.Matching f k s) ∨
    (∃ p slot r response, s = s₀.inFrame p slot r response ∧ p.toNat = k ∧ slot.toNat = j)
  bytes : s₀.rbuf.wf → s.rbuf.wf ∧ s.rbuf.bytes k = f.take k

/-- The frame `f` begins with slot `j`'s response header and has the slot's EXPLEN; it begins with no noise header, and
no other slot's response header completes before `j`'s or with it at a lower slot (41_reassembler.md R134). -/
structure State.Frame (s : State) (j : Nat) (f : List Byte) : Prop where
  legal : s.Legal
  rq : s.rq = false
  eligible : s.eligible j = true
  length : f.length = (s.slotAt j).explen.toNat
  header : s.RhPrefix f (s.slotAt j).rhlen j
  noNoise : ∀ i, ¬ s.NhPrefix f (s.slotAt i).nhlen i
  first : ∀ i, i ≠ j → s.RhPrefix f (s.slotAt i).rhlen i →
    ¬ ((s.slotAt i).rhlen < (s.slotAt j).rhlen ∨ ((s.slotAt i).rhlen = (s.slotAt j).rhlen ∧ i < j))

/-- What the reception of a whole frame leaves (R134): the frame in OBUF with the output free, OVR with it held. -/
def State.Received (s : State) (j : Nat) (f : List Byte) (t : State) : Prop :=
  t = { s with rbuf := t.rbuf, obuf := t.obuf, outv := true, outLen := t.outLen, outSchema := t.outSchema,
               outCkok := t.outCkok, ovr := t.ovr, fsm := .idle, pos := 0, slot := 0, candr := 0, candn := 0,
               rq := true, response := some ⟨.ok, 0x0000⟩ } ∧
    (s.outv = false → t.obuf.bytes f.length = f ∧ t.outLen.toNat = f.length ∧ t.outSchema.toNat = j ∧
      t.outCkok = validate (s.slotAt j).kind f ∧ t.ovr = s.ovr) ∧
    (s.outv = true → t.ovr = true ∧ t.obuf = s.obuf ∧ t.outLen = s.outLen ∧ t.outSchema = s.outSchema ∧
      t.outCkok = s.outCkok)

/-- One more byte in RBUF. -/
theorem Memory.bytes_write_eq_take {m : Memory} (hm : m.wf) {f : List Byte} {k : Nat} {b : Byte} (hbytes : m.bytes k = f.take k)
    (hb : f[k]? = some b) : (m.write k b).wf ∧ (m.write k b).bytes (k + 1) = f.take (k + 1) :=
  ⟨Memory.write_wf hm k b, by rw [Memory.bytes_write_succ hm, hbytes, List.take_add_one, hb]; rfl⟩

section
variable {s₀ s : State} {j : Nat} {f : List Byte} {k : Nat} {b : Byte}

theorem State.Frame.slot_toNat (hf : s₀.Frame j f) : (BitVec.ofNat 3 j).toNat = j := by
  have := State.lt_nschema_of_eligible hf.eligible
  obtain ⟨-, hn, -, -⟩ := hf.legal
  rw [BitVec.toNat_ofNat]
  omega

theorem State.Frame.no_noiseCompletes (hf : s₀.Frame j f) (k : Nat) : ¬ ∃ i, s₀.NoiseCompletes f k i :=
  fun ⟨i, hi, hlen⟩ => hf.noNoise i (hlen ▸ hi)

/-- No response header completes before slot `j`'s. -/
theorem State.Frame.no_responseCompletes (hf : s₀.Frame j f) (hearly : k < (s₀.slotAt j).rhlen) :
    ¬ ∃ i, s₀.ResponseCompletes f k i := by
  rintro ⟨i, hi, hlen⟩
  have hij : i ≠ j := by rintro rfl; omega
  exact hf.first i hij (hlen ▸ hi) (.inl (hlen ▸ hearly))

/-- No lower slot's response header completes with slot `j`'s. -/
theorem State.Frame.not_responseCompletes_of_lt (hf : s₀.Frame j f) {i : Nat} (hi : i < j) :
    ¬ s₀.ResponseCompletes f (s₀.slotAt j).rhlen i :=
  fun ⟨hmatch, hlen⟩ => hf.first i (Nat.ne_of_lt hi) (by rwa [hlen]) (.inr ⟨hlen, hi⟩)

/-- A byte before the last one of slot `j`'s response header: the match goes on. -/
theorem State.Matching.exec_push_early (h : s₀.Matching f k s) (hf : s₀.Frame j f) (hb : f[k]? = some b)
    (hbytes : s₀.rbuf.wf → s.rbuf.wf ∧ s.rbuf.bytes k = f.take k) (hearly : k + 1 < (s₀.slotAt j).rhlen) :
    ∃ t, s₀.Receiving j f (k + 1) t ∧ ∀ sof, exec (.push sof b) s = .next t := by
  obtain ⟨t, ht, hrbuf, hpush⟩ := h.exec_push_keep hf.legal hf.rq hb (hf.no_noiseCompletes _)
    (hf.no_responseCompletes hearly) (.inr (hf.header.mono hearly.le))
  refine ⟨t, ⟨.inl ⟨hearly, ht⟩, fun hwf => ?_⟩, hpush⟩
  obtain ⟨hr, hbytes⟩ := hbytes hwf
  rw [hrbuf]
  exact Memory.bytes_write_eq_take hr hbytes hb

/-- The last byte of slot `j`'s response header: the accumulation begins. -/
theorem State.Matching.exec_push_rhlen (h : s₀.Matching f k s) (hf : s₀.Frame j f) (hb : f[k]? = some b)
    (hbytes : s₀.rbuf.wf → s.rbuf.wf ∧ s.rbuf.bytes k = f.take k) (hlast : k + 1 = (s₀.slotAt j).rhlen) :
    ∃ t, s₀.Receiving j f (k + 1) t ∧ ∀ sof, exec (.push sof b) s = .next t := by
  have hpush := h.exec_push_accum hf.legal hf.rq hb (hf.no_noiseCompletes _) ⟨hlast ▸ hf.header, hlast.symm⟩
    (fun i hi => hlast ▸ hf.not_responseCompletes_of_lt hi)
  obtain ⟨-, hrhlen, -, -, -⟩ := Slot.wellFormed_iff.1 (State.wellFormed_of_eligible hf.eligible)
  have hpos := h.pos
  obtain ⟨p, cn, cr, r, response, rfl⟩ := h.frame
  refine ⟨_, ⟨.inr ⟨_, _, _, _, rfl, ?_, hf.slot_toNat⟩, fun hwf => ?_⟩, hpush⟩
  · exact (State.succ_pos_toNat (s := s₀.inHeader p cn cr r response) (n := 4) (by omega) (by decide)).trans (by rw [hpos])
  · obtain ⟨hr, hbytes⟩ := hbytes hwf
    rw [← hpos] at hb hbytes ⊢
    exact Memory.bytes_write_eq_take hr hbytes hb

/-- Every byte of the frame but the last: whatever its SOF, the reception goes on. -/
theorem State.Receiving.exec_push_next (h : s₀.Receiving j f k s) (hf : s₀.Frame j f) (hb : f[k]? = some b)
    (hmore : k + 1 < f.length) :
    ∃ t, s₀.Receiving j f (k + 1) t ∧ ∀ sof, exec (.push sof b) s = .next t := by
  obtain ⟨⟨hk, hmatching⟩ | ⟨p, slot, r, response, rfl, rfl, rfl⟩, hbytes⟩ := h
  case inl =>
    obtain hlast | hearly := Nat.eq_or_lt_of_le (Nat.succ_le_of_lt hk)
    · exact hmatching.exec_push_rhlen hf hb hbytes hlast
    · exact hmatching.exec_push_early hf hb hbytes hearly
  case inr =>
    rw [hf.length] at hmore
    have hlt := Nat.lt_of_succ_lt hmore
    have hpush := fun sof => exec_push_of_accum_append (s := s₀.inFrame p slot r response) (sof := sof) (b := b) rfl
      (State.wellFormed_of_eligible hf.eligible) hlt (.inr ⟨hmore.ne, rfl⟩)
    rw [State.clearRq_of_rq_false (s := s₀.inFrame p slot r response) hf.rq] at hpush
    refine ⟨_, ⟨.inr ⟨_, _, _, _, rfl, ?_, rfl⟩, fun hwf => ?_⟩, hpush⟩
    · exact State.succ_pos_toNat (s := s₀.inFrame p slot r response) hlt (s₀.slotAt slot.toNat).explen.isLt
    · obtain ⟨hr, hbytes⟩ := hbytes hwf
      exact Memory.bytes_write_eq_take hr hbytes hb

/-- The end of an accumulation whose RBUF holds the frame (R127). -/
theorem State.received_of_complete {p : Word} {slot : BitVec 3} {r : Memory} {response : Option Response}
    (hbytes : r.bytes f.length = f) (howf : s₀.obuf.wf) (hlength : f.length < 2 ^ 16) :
    s₀.Received slot.toNat f
      (((s₀.inFrame p slot r response).complete slot.toNat f.length).respond .ok 0x0000) := by
  cases hout : s₀.outv with
  | true =>
    rw [State.complete_of_held (s := s₀.inFrame p slot r response) hout]
    refine ⟨?_, fun hfree => absurd (hout.symm.trans hfree) (by simp), fun _ => ⟨rfl, rfl, rfl, rfl, rfl⟩⟩
    rw [State.respond, ← hout]
    rfl
  | false =>
    rw [State.complete_of_free (s := s₀.inFrame p slot r response) hout]
    refine ⟨rfl, fun _ => ⟨?_, ?_, ?_, ?_, rfl⟩, fun hheld => absurd (hout.symm.trans hheld) (by simp)⟩
    · refine (Memory.bytes_congr fun i hi => ?_).trans hbytes
      exact (Memory.read_copy _ howf _ _).trans (if_pos hi)
    · exact (BitVec.toNat_ofNat _ _).trans (Nat.mod_eq_of_lt hlength)
    · exact (BitVec.toNat_ofNat _ _).trans (Nat.mod_eq_of_lt slot.isLt)
    · exact congrArg (validate _) hbytes

/-- The last byte of the frame: whatever its SOF, the frame is complete (R126, R127). -/
theorem State.Receiving.exec_push_last (h : s₀.Receiving j f k s) (hf : s₀.Frame j f) (hb : f[k]? = some b)
    (hlast : k + 1 = f.length) :
    ∃ t, (s₀.rbuf.wf → s₀.obuf.wf → s₀.Received j f t) ∧ ∀ sof, exec (.push sof b) s = .next t := by
  have hwf := State.wellFormed_of_eligible hf.eligible
  obtain ⟨-, -, -, hheader, -⟩ := Slot.wellFormed_iff.1 hwf
  have hcklen := ckLen_pos (s₀.slotAt j).kind
  have hlength := hf.length
  obtain ⟨⟨hk, -⟩ | ⟨p, slot, r, response, rfl, rfl, rfl⟩, hbytes⟩ := h
  case inl => omega
  case inr =>
    have hpush := fun sof => exec_push_of_accum_append (s := s₀.inFrame p slot r response) (sof := sof) (b := b) rfl hwf
      (Nat.lt_of_succ_le (hlast.trans hlength).le) (.inl ⟨hlast.trans hlength, rfl⟩)
    rw [State.clearRq_of_rq_false (s := s₀.inFrame p slot r response) hf.rq] at hpush
    refine ⟨_, fun hrwf howf => ?_, hpush⟩
    obtain ⟨hr, hbytes⟩ := hbytes hrwf
    obtain ⟨-, hbytes'⟩ := Memory.bytes_write_eq_take hr hbytes hb
    rw [hlast, List.take_length] at hbytes'
    have hreceived := State.received_of_complete (p := p + 1) (slot := slot) (response := response) hbytes' howf
      (hlength ▸ (s₀.slotAt slot.toNat).explen.isLt)
    rw [hlength] at hreceived
    exact hreceived

/-- The operations deliver the bytes in order, each with any SOF. -/
def Delivers (is : List Instr) (bs : List Byte) : Prop := List.Forall₂ (fun i b => ∃ sof, i = .push sof b) is bs

/-- The rest of a frame ends in one state, whatever the SOFs of its bytes. -/
theorem State.Receiving.execAll_delivers {rest : List Byte} (h : s₀.Receiving j f k s) (hf : s₀.Frame j f)
    (hrest : f.drop k = rest) (hne : rest ≠ []) :
    ∃ t, (s₀.rbuf.wf → s₀.obuf.wf → s₀.Received j f t) ∧ ∀ is, Delivers is rest → execAll is s = .next t := by
  induction rest generalizing k s with
  | nil => exact absurd rfl hne
  | cons b rest ih =>
    have hb : f[k]? = some b := by rw [← List.head?_drop, hrest, List.head?_cons]
    have hrest' : f.drop (k + 1) = rest := by rw [← List.tail_drop, hrest, List.tail_cons]
    cases rest with
    | nil =>
      have hlast : k + 1 = f.length := by
        have hlen := congrArg List.length hrest
        rw [List.length_drop, List.length_singleton] at hlen
        omega
      obtain ⟨t, ht, hpush⟩ := h.exec_push_last hf hb hlast
      refine ⟨t, ht, ?_⟩
      rintro _ (_ | ⟨⟨sof, rfl⟩, hnil⟩)
      cases hnil
      exact execAll_cons_of_next (hpush sof)
    | cons c rest =>
      have hmore : k + 1 < f.length := by
        have hlen := congrArg List.length hrest'
        rw [List.length_drop, List.length_cons] at hlen
        omega
      obtain ⟨u, hu, hpush⟩ := h.exec_push_next hf hb hmore
      obtain ⟨t, ht, hall⟩ := ih hu hrest' (List.cons_ne_nil _ _)
      refine ⟨t, ht, ?_⟩
      rintro _ (_ | ⟨⟨sof, rfl⟩, hdelivers⟩)
      exact (execAll_cons_of_next (hpush sof)).trans (hall _ hdelivers)

end

/-! ### Chunks -/

theorem delivers_map_push (sof : Bool) (bs : List Byte) : Delivers (bs.map (.push sof)) bs := by
  induction bs with
  | nil => exact .nil
  | cons b bs ih => exact .cons ⟨sof, rfl⟩ ih

theorem delivers_append {is js : List Instr} {bs cs : List Byte} (h : Delivers is bs) (g : Delivers js cs) :
    Delivers (is ++ js) (bs ++ cs) := List.rel_append h g

theorem delivers_chunk (c : List Byte) : Delivers (chunk c) c := by
  cases c with
  | nil => exact .nil
  | cons b bs => exact .cons ⟨true, rfl⟩ (delivers_map_push false bs)

theorem delivers_chunks (cs : List (List Byte)) : Delivers (chunks cs) cs.flatten := by
  induction cs with
  | nil => exact .nil
  | cons c cs ih => exact delivers_append (delivers_chunk c) ih

/-- Non-empty chunks deliver their first byte as a chunk start (R120). -/
theorem chunks_eq_cons {cs : List (List Byte)} {f : List Byte} (hflatten : cs.flatten = f) (hne : [] ∉ cs) (hf : f ≠ []) :
    ∃ b is, chunks cs = .push true b :: is := by
  cases cs with
  | nil => exact absurd hflatten.symm hf
  | cons c cs =>
    cases c with
    | nil => exact absurd List.mem_cons_self hne
    | cons b bs => exact ⟨b, _, rfl⟩

/-- A frame delivered from IDLE ends in one state, however it is cut into chunks (R134). -/
theorem State.Frame.execAll_chunks {s : State} {j : Nat} {f : List Byte} (hf : s.Frame j f) (hidle : s.fsm = .idle) :
    ∃ t, (s.rbuf.wf → s.obuf.wf → s.Received j f t) ∧
      ∀ cs : List (List Byte), cs.flatten = f → [] ∉ cs → execAll (chunks cs) s = .next t := by
  have hwf := State.wellFormed_of_eligible hf.eligible
  have hne : f ≠ [] := by
    have := (State.explen_of_wellFormed hwf).1
    have := hf.length
    exact List.ne_nil_of_length_pos (by omega)
  have hseed : s.Receiving j f 0 s.seed :=
    ⟨.inl ⟨(Slot.wellFormed_iff.1 hwf).1, State.seed_matching hf.legal f⟩, fun hr => ⟨hr, rfl⟩⟩
  obtain ⟨t, ht, hall⟩ := hseed.execAll_delivers hf List.drop_zero hne
  refine ⟨t, ht, fun cs hflatten hcs => ?_⟩
  have hdelivers := hall _ (hflatten ▸ delivers_chunks cs)
  obtain ⟨b, is, hchunks⟩ := chunks_eq_cons hflatten hcs hne
  rw [hchunks] at hdelivers ⊢
  rw [execAll_cons, exec_push_start hidle hf.rq, ← execAll_cons]
  exact hdelivers

/-! ### A noise chunk -/

/-- What a noise chunk leaves (R131). -/
def State.NoiseDropped (s t : State) : Prop :=
  t = { s with noise := true, rbuf := t.rbuf, pos := 0, slot := 0, candr := 0, candn := 0,
               response := some ⟨.ok, 0x0000⟩ }

/-- A match whose sequence begins with slot `j`'s noise header, and with no response header shorter than it: each byte goes
on or completes a noise header, whatever its SOF, and after that the rest of the chunk is dropped. -/
theorem State.Matching.execAll_noise {s₀ s : State} {j k : Nat} {f rest : List Byte} (h : s₀.Matching f k s)
    (hlegal : s₀.Legal) (hidle : s₀.fsm = .idle) (hrq : s₀.rq = false) (hj : s₀.NhPrefix f (s₀.slotAt j).nhlen j)
    (hk : k < (s₀.slotAt j).nhlen)
    (hresp : ∀ i, s₀.RhPrefix f (s₀.slotAt i).rhlen i → (s₀.slotAt j).nhlen ≤ (s₀.slotAt i).rhlen)
    {b : Byte} (hrest : f.drop k = b :: rest) :
    ∃ t, s₀.NoiseDropped t ∧ ∀ sof, execAll (.push sof b :: rest.map (.push false)) s = .next t := by
  have hb : f[k]? = some b := by rw [← List.head?_drop, hrest, List.head?_cons]
  have hrest' : f.drop (k + 1) = rest := by rw [← List.tail_drop, hrest, List.tail_cons]
  by_cases hnoise : ∃ i, s₀.NoiseCompletes f (k + 1) i
  · have hpush := h.exec_push_noise hrq hb hnoise
    obtain ⟨p, cn, cr, r, response, rfl⟩ := h.frame
    refine ⟨(s₀.inHeader p cn cr r response).dropNoise.respond .ok 0x0000, ?_, fun sof => ?_⟩
    · rw [State.NoiseDropped, hidle]
      rfl
    · exact (execAll_cons_of_next (hpush sof)).trans
        (execAll_push_dropped (s := (s₀.inHeader p cn cr r response).dropNoise.respond .ok 0x0000) rfl hrq rfl rest)
  · have hearly : k + 1 < (s₀.slotAt j).nhlen :=
      Nat.lt_of_le_of_ne hk fun hlen => hnoise ⟨j, hlen ▸ hj, hlen.symm⟩
    have hnoresp : ¬ ∃ i, s₀.ResponseCompletes f (k + 1) i := by
      rintro ⟨i, hi, hlen⟩
      have := hresp i (hlen ▸ hi)
      omega
    obtain ⟨u, hu, -, hpush⟩ := h.exec_push_keep hlegal hrq hb hnoise hnoresp (.inl (hj.mono hk))
    obtain ⟨b', rest', rfl⟩ : ∃ b' rest', rest = b' :: rest' := by
      obtain ⟨-, -, -, hagrees⟩ := hj
      have hnext := hagrees (k + 1) hearly
      rw [← List.head?_drop, hrest'] at hnext
      exact ⟨_, _, (List.head?_eq_some_iff.1 hnext).choose_spec⟩
    obtain ⟨t, ht, hall⟩ := hu.execAll_noise hlegal hidle hrq hj hearly hresp hrest'
    exact ⟨t, ht, fun sof => (execAll_cons_of_next (hpush sof)).trans (hall false)⟩
termination_by (s₀.slotAt j).nhlen - k

/-! ### The statements -/

/-- Settles O47: CANCEL leaves IDLE with RQ = 0, where a byte without SOF is dropped. -/
theorem cancelDropsTheRestOfTheChunk : Obligations.CancelDropsTheRestOfTheChunk := fun s bs =>
  (execAll_cons_of_next (s := s) (i := .cancel) rfl).trans
    (execAll_push_dropped (s := s.goIdle.clearRq.respond .ok 0x0000) rfl rfl rfl bs)

/-- The premises of the two statements on frames, as `State.Frame`. -/
theorem State.frame_of_premises {s : State} {j : Nat} {f : List Byte} (hlegal : s.Legal) (hrq : s.rq = false)
    (hj : s.eligible j = true) (hlength : f.length = (s.slotAt j).explen.toNat)
    (hheader : f.take (s.slotAt j).rhlen = (s.slotAt j).rhBytes)
    (hnoise : ∀ i, s.eligible i = true → 1 ≤ (s.slotAt i).nhlen → f.take (s.slotAt i).nhlen ≠ (s.slotAt i).nhBytes)
    (hfirst : ∀ i, s.eligible i = true → i ≠ j → f.take (s.slotAt i).rhlen = (s.slotAt i).rhBytes →
      ¬ ((s.slotAt i).rhlen < (s.slotAt j).rhlen ∨ ((s.slotAt i).rhlen = (s.slotAt j).rhlen ∧ i < j))) : s.Frame j f where
  legal := hlegal
  rq := hrq
  eligible := hj
  length := hlength
  header := State.rhPrefix_rhlen_iff.2 ⟨hj, hheader⟩
  noNoise i hi := by
    obtain ⟨he, h1, hprefix⟩ := State.nhPrefix_nhlen_iff.1 hi
    exact hnoise i he h1 hprefix
  first i hij hi := by
    obtain ⟨he, hprefix⟩ := State.rhPrefix_rhlen_iff.1 hi
    exact hfirst i he hij hprefix

/-- Settles O48: the chunks are one delivery of the frame's bytes, and its end state is that of the last byte. -/
theorem frameCompletesInAnyChunking : Obligations.FrameCompletesInAnyChunking := by
  intro s j f cs hlegal hidle hrq hrwf howf hj hlength hheader hnoise hfirst hflatten hne
  obtain ⟨t, ht, hall⟩ := (State.frame_of_premises hlegal hrq hj hlength hheader hnoise hfirst).execAll_chunks hidle
  exact ⟨t, hall cs hflatten hne, ht hrwf howf⟩

/-- Settles O49: the end state does not depend on the chunks. -/
theorem chunkBoundariesDoNotMatter : Obligations.ChunkBoundariesDoNotMatter := by
  intro s j f cs cs' hlegal hidle hrq hj hlength hheader hnoise hfirst hflatten hne hflatten' hne'
  obtain ⟨t, -, hall⟩ := (State.frame_of_premises hlegal hrq hj hlength hheader hnoise hfirst).execAll_chunks hidle
  exact ⟨t, hall cs hflatten hne, hall cs' hflatten' hne'⟩

/-- Settles O50: the chunk's first byte opens the match, which ends with a noise header's last byte. -/
theorem noiseChunkIsDropped : Obligations.NoiseChunkIsDropped := by
  intro s j c hlegal hidle hrq hj hnhlen hheader hresp
  have hprefix := State.nhPrefix_nhlen_iff.2 ⟨hj, hnhlen, hheader⟩
  obtain ⟨b, rest, rfl⟩ : ∃ b rest, c = b :: rest := by
    cases c with
    | nil => cases hprefix.2.2.2 0 hnhlen
    | cons b rest => exact ⟨b, rest, rfl⟩
  obtain ⟨t, ht, hall⟩ := (State.seed_matching hlegal (b :: rest)).execAll_noise hlegal hidle hrq hprefix hnhlen
    (fun i hi => hresp i hi.1 (State.rhPrefix_rhlen_iff.1 hi).2) List.drop_zero
  refine ⟨t, ?_, ht⟩
  rw [chunk, execAll_cons, exec_push_start hidle hrq, ← execAll_cons]
  exact hall true

end Sys2Proof.Machine
end
